-- ==== Sys2Proof/Word.lean ====
section
/-! DEFINITION. The machine word of the SHA-512 compression engine and the fixed-length groups of words it works on.
The arithmetic and the bitwise functions are in Machine/Primitives.lean. -/

namespace Sys2Proof

/-- A word: an unsigned 64-bit value, bit 0 the least significant (R9). -/
abbrev Word := BitVec 64

/-- Eight words in order: the digest state `H[0..7]` (R21) and one column of the IV ROM (R31). -/
abbrev Digest := Vector Word 8

/-- Sixteen words in order: one message block (R7) and the schedule window `W[0..15]` (R24). -/
abbrev Block := Vector Word 16

end Sys2Proof
end

