-- ==== Sys2Proof/Syntax.lean ====
section
/-! DEFINITION. The syntax of the engine's commands: the four variants, the three rows of the opcode table with their
operands, and the framed transaction that carries one of them. -/

namespace Sys2Proof

/-- The four variants of R2; R73 codes them 00, 01, 10, 11 in this order. No fifth variant can be written (R184). -/
inductive Variant where
  | sha512
  | sha384
  | sha512_224
  | sha512_256
  deriving DecidableEq, Repr

/-- One constructor per row of the opcode table (R72, R86). The operands are the VAR field, for INIT, and the payload
words `P` of the transaction, whose number only the framing fixes (R70, R75). -/
inductive Instr where
  /-- INIT (R130). -/
  | init (v : Variant) (P : List Word)
  /-- PROCESS_BLOCK (R140). -/
  | processBlock (P : List Word)
  /-- READ_DIGEST (R150). -/
  | readDigest (P : List Word)
  deriving DecidableEq, Repr

/-- The payload words of a command. -/
def Instr.payload : Instr → List Word
  | .init _ P => P
  | .processBlock P => P
  | .readDigest P => P

/-- A command transaction `(CMD, P)` of R70: one command word and the payload words the framing delimits. -/
structure Transaction where
  CMD : Word
  P : List Word
  deriving DecidableEq, Repr

/-- The beats of a transaction in the order they move: `CMD`, then `P[0..N-1]` (R84). -/
def Transaction.beats (t : Transaction) : List Word := t.CMD :: t.P

end Sys2Proof
end

