-- ==== Sys2Proof/WellFormed.lean ====
section
/-! DEFINITION. When a command is well formed: its payload has the number of words its row of R75 requires. A command
that is not well formed still runs: the engine answers it with an error status (R181). -/

namespace Sys2Proof

/-- The payload length each command requires (R75). -/
def Instr.requiredWords : Instr → Nat
  | .init _ _ => 0
  | .processBlock _ => 16
  | .readDigest _ => 0

/-- R75: N equals the required N. -/
def Instr.wellFormed (i : Instr) : Bool :=
  match i with
  | .init _ P => P.length == 0
  | .processBlock P => P.length == 16
  | .readDigest P => P.length == 0

end Sys2Proof
end

