-- ==== Sys2Proof/Decode.lean ====
section
/-! DEFINITION. Decoding a framed transaction (R71 to R77, R85) and encoding a command (R71 to R73, R86). -/

namespace Sys2Proof

/-- The 2-bit code of a variant (R73). -/
def Variant.code : Variant → BitVec 2
  | .sha512 => 0b00#2
  | .sha384 => 0b01#2
  | .sha512_224 => 0b10#2
  | .sha512_256 => 0b11#2

/-- The variant a VAR field codes; all four values are legal (R73). -/
def Variant.ofCode (var : BitVec 2) : Variant :=
  if var = 0b00#2 then .sha512
  else if var = 0b01#2 then .sha384
  else if var = 0b10#2 then .sha512_224
  else .sha512_256

/-- `OP = CMD[3:0]` (R71). -/
def opField (CMD : Word) : BitVec 4 := CMD.extractLsb' 0 4

/-- `VAR = CMD[5:4]` (R71). -/
def varField (CMD : Word) : BitVec 2 := CMD.extractLsb' 4 2

/-- `RSV = CMD[63:6]` (R71). -/
def rsvField (CMD : Word) : BitVec 58 := CMD.extractLsb' 6 58

/-- Why the decoder rejects. The last three are the causes R183 lists for E_ILLEGAL_COMMAND. -/
inductive Reject where
  /-- A transaction with no beat: not a transaction at all, since its first beat is `CMD` (R70, R84). -/
  | noCommandWord
  /-- A nonzero RSV field, whatever the opcode (R74). -/
  | rsvNonzero
  /-- OP 0x0 or 0x4 to 0xF (R85). -/
  | reservedOp
  /-- A nonzero VAR field under PROCESS_BLOCK or READ_DIGEST (R74). -/
  | varNonzero
  deriving DecidableEq, Repr

/-- The decode function of R77, on the command word and the payload that came with it; total. The order of the tests is
that of R77; its one answer ILLEGAL is split by cause. -/
def decode (CMD : Word) (P : List Word) : Except Reject Instr :=
  let op := opField CMD
  let var := varField CMD
  if rsvField CMD ≠ 0#58 then .error .rsvNonzero
  else if op = 0x1#4 then .ok (.init (Variant.ofCode var) P)
  else if op = 0x2#4 then
    if var = 0b00#2 then .ok (.processBlock P) else .error .varNonzero
  else if op = 0x3#4 then
    if var = 0b00#2 then .ok (.readDigest P) else .error .varNonzero
  else .error .reservedOp

/-- Decoding the beats of one framed transaction (R84: the first is `CMD`, the rest are the payload). -/
def decodeBeats : List Word → Except Reject Instr
  | [] => .error .noCommandWord
  | CMD :: P => decode CMD P

/-- The command word with the three fields of R71, RSV zero. -/
def commandWord (var : BitVec 2) (op : BitVec 4) : Word := 0#58 ++ var ++ op

/-- The command word of a command (R72, R73, R86). -/
def encodeWord : Instr → Word
  | .init v _ => commandWord v.code 0x1#4
  | .processBlock _ => commandWord 0b00#2 0x2#4
  | .readDigest _ => commandWord 0b00#2 0x3#4

/-- The words of a command's transaction: the command word, then the payload as it stands (R70, R76). -/
def encode (i : Instr) : List Word := encodeWord i :: i.payload

/-- One row of the opcode map of R86. -/
structure OpcodeRow where
  mnemonic : String
  matchBits : Word
  mask : Word
  deriving DecidableEq, Repr

/-- The complete opcode map, row by row as R86 has it. -/
def opcodeMap : List OpcodeRow :=
  [ ⟨"INIT", 0x0000000000000001#64, 0xFFFFFFFFFFFFFFCF#64⟩,
    ⟨"PROCESS_BLOCK", 0x0000000000000002#64, 0xFFFFFFFFFFFFFFFF#64⟩,
    ⟨"READ_DIGEST", 0x0000000000000003#64, 0xFFFFFFFFFFFFFFFF#64⟩ ]

/-- R86: a word matches a row when `(CMD AND mask) == match`. -/
def OpcodeRow.matches (row : OpcodeRow) (CMD : Word) : Bool := (CMD &&& row.mask) == row.matchBits

/-- The mnemonic of a command, as the opcode map spells it. -/
def Instr.mnemonic : Instr → String
  | .init _ _ => "INIT"
  | .processBlock _ => "PROCESS_BLOCK"
  | .readDigest _ => "READ_DIGEST"

/-- How many payload words follow a command word when the host's numbering of bits (word 0 first) gives no length: as many
as the command it decodes to requires (R75), none for an illegal one, and never fewer than the given bits reach into. -/
def framedLength (nbits : Nat) (CMD : Word) : Nat :=
  max ((nbits + 63) / 64 - 1)
    (match decode CMD [] with
     | .ok i => i.requiredWords
     | .error _ => 0)

/-- A number as `n` words, the least significant first. -/
def splitWords : Nat → Nat → List Word
  | 0, _ => []
  | n + 1, x => BitVec.ofNat 64 x :: splitWords n (x / 2 ^ 64)

/-- The transaction whose bits are `w` below `nbits` and zero above, bit 0 the least significant bit of `CMD` (log entry 5).
The port's words are whole (R52), so no byte order arises. -/
def frameWord (nbits w : Nat) : Transaction :=
  let bits := w % 2 ^ nbits
  let CMD := BitVec.ofNat 64 bits
  { CMD := CMD
    P := splitWords (framedLength nbits CMD) (bits / 2 ^ 64) }

/-- What the decoder reads from the instruction whose bits are `w` (none where it rejects). -/
def decodeTableWord (nbits w : Nat) : Option Instr :=
  match decodeBeats (frameWord nbits w).beats with
  | .ok i => some i
  | .error _ => none

end Sys2Proof
end

