-- ==== Sys2Proof/Machine/State.lean ====
section
/-! DEFINITION. The state of one engine instance: the registers and sequencer of R20, the command port (R84, R210), what the
host has issued and received, and the state right after reset (R37, R210). The two ROMs of R20 are constants
(Machine/Rom.lean). -/

namespace Sys2Proof.Machine

/-- The sequencer's phase (R20, R29): IDLE = 0, BUSY = 1. -/
inductive Phase where
  | idle
  | busy
  deriving DecidableEq, Repr

/-- The four status codes that can be sent (R180). Codes 0x4 to 0xF are never sent, so they cannot be written (U5). -/
inductive Status where
  | ok
  | badLength
  | notInitialized
  | illegalCommand
  deriving DecidableEq, Repr

/-- A response transaction `(RSP, Q)` of R70: the header word and the payload words. -/
structure Response where
  RSP : Word
  Q : List Word
  deriving DecidableEq, Repr

/-- The beats of a response in the order they move: `RSP`, then `Q[0..RLEN-1]` (R84). -/
def Response.beats (r : Response) : List Word := r.RSP :: r.Q

/-- A response being sent, and how many of its beats the host has taken. -/
structure Sending where
  rsp : Response
  sent : Nat
  deriving DecidableEq, Repr

/-- The working registers `a..h` (R25). -/
structure Working where
  a : Word
  b : Word
  c : Word
  d : Word
  e : Word
  f : Word
  g : Word
  h : Word
  deriving DecidableEq, Repr

/-- One engine instance. The first seven fields are the registers and the sequencer of R20, under its names; `rx`, `tx`,
`wait` and `rstHeld` are the command port's; `inbox` and `outbox` are the two ends of a run (R226). -/
structure State where
  /-- The digest state `H[0..7]` (R21). -/
  H : Digest
  /-- The variant register (R22). -/
  VAR : Variant
  /-- The flag that says whether `H` and `VAR` have been created (R23). -/
  INITIALIZED : Bool
  /-- The message schedule window `W[0..15]` (R24). -/
  W : Block
  /-- The working registers (R25). -/
  regs : Working
  /-- IDLE or BUSY (R29). -/
  PHASE : Phase
  /-- The round index, 0..80: the index of the next round while BUSY, 80 once the fold is next (R36). -/
  RND : Fin 81
  /-- The beats taken of a command transaction whose last beat has not come yet (R84, R210). -/
  rx : List Word
  /-- The response the host has not fully taken yet (R84, R210). -/
  tx : Option Sending
  /-- Cycles until the engine's next answer: to the end of the busy phase, or until `tx` is offered (R225; log entry 9). -/
  wait : Nat
  /-- Whether `rst` was high at the last clock edge (R210: the edge after it falls; log entry 7). -/
  rstHeld : Bool
  /-- The transactions the host has issued and the port still holds back, oldest first (R220). -/
  inbox : List Transaction
  /-- The responses the host has taken, oldest first: what a run shows (R226). -/
  outbox : List Response
  deriving DecidableEq, Repr

/-- The reasons the machine could stop with a fault. There are none, and so no constructor: nothing in the engine fails at run
time (R187), it has no trap (R188), and a contract violation is answered by a response (R180), a next state. That no step
faults is safe and unsafe in nothing: the spec has no fault to leave out. -/
inductive Fault where
  deriving DecidableEq, Repr

/-- The reasons the machine refuses an instruction. -/
inductive Refusal where
  /-- An instruction without a meaning yet. Raised by an arm of `exec` only; every arm has its meaning, so no step raises it.
  Safe: a refusal proves nothing about the hardware. -/
  | notModelled (mnemonic : String)
  deriving DecidableEq, Repr

/-- The value of every working register after reset (log entry 1: DESIGN CHOICE, the spec gives none). -/
def Working.reset : Working := ⟨0#64, 0#64, 0#64, 0#64, 0#64, 0#64, 0#64, 0#64⟩

/-- The machine right after reset (R37, R210, R211): `INITIALIZED = 0`, IDLE, nothing received, nothing to send. R37 gives
`H`, `VAR`, `W`, `a..h` and `RND` no value; the values here are log entry 1 (DESIGN CHOICE). -/
def State.reset : State where
  H := Vector.replicate 8 0#64
  VAR := .sha512
  INITIALIZED := false
  W := Vector.replicate 16 0#64
  regs := Working.reset
  PHASE := .idle
  RND := 0
  rx := []
  tx := none
  wait := 0
  rstHeld := false
  inbox := []
  outbox := []

end Sys2Proof.Machine
end

