-- ==== Sys2Proof/Machine/Flags.lean ====
section
/-! DEFINITION. What the engine reports in place of flags. It has no condition codes and records no carry (R27); each response
header carries a status (R180) in the layout of R81. -/

namespace Sys2Proof.Machine

/-- The STATUS code of R180. -/
def Status.code : Status → BitVec 4
  | .ok => 0x0#4
  | .badLength => 0x1#4
  | .notInitialized => 0x2#4
  | .illegalCommand => 0x3#4

/-- The response header word (R81): 63:32 zero, 31:16 OUTBITS, 15:8 RLEN, 7:4 zero, 3:0 STATUS. -/
def responseHeader (st : Status) (OUTBITS RLEN : Nat) : Word :=
  0#32 ++ BitVec.ofNat 16 OUTBITS ++ BitVec.ofNat 8 RLEN ++ 0#4 ++ st.code

end Sys2Proof.Machine
end

