-- ==== Sys2Proof/Machine/Operands.lean ====
section
/-! DEFINITION. The operand forms of the three commands: the payload as a block (R75, R141), and the truncated read-out of the
digest state (R150, R151). No operand is extended, swapped or masked (R76). -/

namespace Sys2Proof.Machine

/-- The payload as the 16 words of a block, in order; none when N is not 16 (R75, R141). -/
def blockOf (P : List Word) : Option Block :=
  if h : P.length = 16 then some ⟨⟨P⟩, h⟩ else none

/-- The output length t of a variant in bits (R2, R73). -/
def outLen : Variant → Nat
  | .sha512 => 512
  | .sha384 => 384
  | .sha512_224 => 224
  | .sha512_256 => 256

/-- `ceil(t / 64)`: how many words carry t bits (R150). -/
def wordsFor (t : Nat) : Nat := (t + 63) / 64

/-- Word j of the read-out: whole when its 64 bits are among the first t, else its top t - 64j bits, zeros below (R151). -/
def truncWord (t j : Nat) (x : Word) : Word :=
  if 64 * (j + 1) ≤ t then x
  else x &&& (0xFFFFFFFFFFFFFFFF#64 <<< (64 * (j + 1) - t))

/-- TRUNC of R151: the t most significant bits of `H[0] || ... || H[7]`, in `ceil(t / 64)` words, zeros on the right. -/
def trunc (H : Digest) (t : Nat) : List Word :=
  ((H.toList.take (wordsFor t)).zipIdx).map fun p => truncWord t p.2 p.1

end Sys2Proof.Machine
end

