-- ==== Sys2Proof/Machine/Primitives.lean ====
section
/-! DEFINITION. The round primitives (40_round_primitives.md): pure functions on words with no encoding (R100). The amounts
of rotation and shift are the SHA-512 set of R109. -/

namespace Sys2Proof.Machine

/-- Bitwise rotate-right within a 64-bit word (R101), defined for 0..63 only (D32). -/
def rotr (x : Word) (r : Fin 64) : Word :=
  if r.val = 0 then x else (x >>> r.val) ||| (x <<< (64 - r.val))

/-- Logical right shift (R102), defined for 0..63 only (D32). -/
def shr (x : Word) (r : Fin 64) : Word := x >>> r.val

/-- Choose (R103). -/
def Ch (x y z : Word) : Word := (x &&& y) ^^^ (~~~x &&& z)

/-- Majority (R104). -/
def Maj (x y z : Word) : Word := (x &&& y) ^^^ (x &&& z) ^^^ (y &&& z)

/-- R105. -/
def SIGMA0 (x : Word) : Word := rotr x 28 ^^^ rotr x 34 ^^^ rotr x 39

/-- R106. -/
def SIGMA1 (x : Word) : Word := rotr x 14 ^^^ rotr x 18 ^^^ rotr x 41

/-- R107: the third term is a shift. -/
def sigma0 (x : Word) : Word := rotr x 1 ^^^ rotr x 8 ^^^ shr x 7

/-- R108: the third term is a shift. -/
def sigma1 (x : Word) : Word := rotr x 19 ^^^ rotr x 61 ^^^ shr x 6

/-- Addition modulo 2^64, the engine's only arithmetic (R110, R113). -/
def add64 (x y : Word) : Word := x + y

/-- The first mixing transform (R111). -/
def T1 (e f g h k w : Word) : Word :=
  add64 (add64 (add64 (add64 h (SIGMA1 e)) (Ch e f g)) k) w

/-- The second mixing transform (R112). -/
def T2 (a b c : Word) : Word := add64 (SIGMA0 a) (Maj a b c)

end Sys2Proof.Machine
end

