-- ==== Sys2Proof/Machine/Ops.lean ====
section
/-! DEFINITION. The shared operations on the state: giving a response, turning a command away (the engine's one form of
exception), handing a response over, and reset. -/

namespace Sys2Proof.Machine

/-- `respond(status, payload)` of R11: the command ends and its one response is offered (R80), RLEN being the number of
payload words (R81). No register is written. -/
def respond (st : Status) (OUTBITS : Nat) (Q : List Word) (s : State) : State :=
  { s with tx := some { rsp := { RSP := responseHeader st OUTBITS Q.length, Q := Q }, sent := 0 } }

/-- `raise <Status>()` of R11: the error response with an empty payload, and no state written at all (R185). The engine saves
nothing, changes no mode and runs no handler (R188), and the next command is handled as if no error had happened, so there is
no return from it either (R189). -/
def raise (st : Status) (s : State) : State := respond st 0 [] s

/-- INIT's writes (R130): `VAR`, all of `H`, and `INITIALIZED`. -/
def loadVariant (v : Variant) (s : State) : State :=
  { s with VAR := v, H := IV v, INITIALIZED := true }

/-- The host takes all of the offered response: it joins the responses of the run, and the port is free again (R84, R226). -/
def handOver (r : Response) (s : State) : State :=
  { s with outbox := s.outbox ++ [r], tx := none, wait := 0 }

/-- The port lets in the oldest transaction the host has waiting (R220): `rest` still waits. -/
def letIn (rest : List Transaction) (s : State) : State := { s with inbox := rest }

/-- The reset event of R210: every register to its value of R37, a block in progress abandoned, the beats received and the
response not fully sent discarded. What the host has yet to issue and has already received is the host's (log entry 13);
`high` says whether `rst` is high at this edge. -/
def resetEvent (high : Bool) (s : State) : State :=
  { State.reset with inbox := s.inbox, outbox := s.outbox, rstHeld := high }

end Sys2Proof.Machine
end

