-- ==== Sys2Proof/Machine/Compression.lean ====
section
/-! DEFINITION. PROCESS_BLOCK (R140) and its steps, one definition per rule R141 to R148. -/

namespace Sys2Proof.Machine

/-- Step 1, LOAD_WINDOW (R141): every word of `W` is overwritten. -/
def loadWindow (B : Block) (s : State) : State := { s with W := B }

/-- The pairing `a..h` with `H[0..7]` (R25, R142). -/
def workingOf (H : Digest) : Working :=
  ⟨H[0], H[1], H[2], H[3], H[4], H[5], H[6], H[7]⟩

/-- Step 2, LOAD_WORKING (R142). -/
def loadWorking (s : State) : State := { s with regs := workingOf s.H }

/-- The recurrence of R143 on the window before the shift. -/
def recurrence (W : Block) : Word :=
  add64 (add64 (add64 (sigma1 W[14]) W[9]) (sigma0 W[1])) W[0]

/-- SCHED(i), the schedule word of round i (R143). -/
def SCHED (i : Nat) (W : Block) : Word :=
  if h : i < 16 then W[i] else recurrence W

/-- The window one slot to the left, `w` at the end (R144), as one parallel assignment. -/
def shiftWindow (W : Block) (w : Word) : Block :=
  #v[W[1], W[2], W[3], W[4], W[5], W[6], W[7], W[8], W[9], W[10], W[11], W[12], W[13], W[14], W[15], w]

/-- The window after round i: shifted for i >= 16, as it was for i < 16 (R144). -/
def windowStep (i : Nat) (W : Block) : Block :=
  if 16 ≤ i then shiftWindow W (SCHED i W) else W

/-- The register rotation (R146), as one parallel assignment. -/
def rotate (r : Working) (t1 t2 : Word) : Working :=
  { a := add64 t1 t2, b := r.a, c := r.b, d := r.c, e := add64 r.d t1, f := r.e, g := r.f, h := r.g }

/-- The working registers after a round with constant `k` and schedule word `w` (R145 to R147): `t1` and `t2` come from the
registers before the round, and `t1` is used twice. -/
def mixRegisters (r : Working) (k w : Word) : Working :=
  rotate r (T1 r.e r.f r.g r.h k w) (T2 r.a r.b r.c)

/-- ROUND(i) (R145): the schedule word from the window before the shift, then the window, the registers and `RND <- i + 1`. -/
def doRound (i : Fin 80) (s : State) : State :=
  { s with
    W := windowStep i s.W
    regs := mixRegisters s.regs (K i) (SCHED i s.W)
    RND := i.succ }

/-- `while RND < 80: ROUND(RND)` (R140, R145); `fuel` bounds the loop, and 80 always suffices. -/
def roundLoop : Nat → State → State
  | 0, s => s
  | fuel + 1, s => if h : s.RND.val < 80 then roundLoop fuel (doRound ⟨s.RND.val, h⟩ s) else s

/-- The sum of R148, word by word. -/
def foldDigest (H : Digest) (r : Working) : Digest :=
  #v[add64 H[0] r.a, add64 H[1] r.b, add64 H[2] r.c, add64 H[3] r.d,
     add64 H[4] r.e, add64 H[5] r.f, add64 H[6] r.g, add64 H[7] r.h]

/-- Step 4, FOLD (R148). -/
def fold (s : State) : State := { s with H := foldDigest s.H s.regs }

/-- The start of an accepted block (R140): BUSY, window and registers loaded, `RND <- 0`. -/
def beginBlock (B : Block) (s : State) : State :=
  { loadWorking (loadWindow B { s with PHASE := .busy }) with RND := 0 }

/-- The end of a block (R140): FOLD, IDLE, and the OK response. -/
def finishBlock (s : State) : State := respond .ok 0 [] { fold s with PHASE := .idle }

/-- One action of the sequencer while BUSY (R36): the next round, or the fold once `RND = 80`. -/
def sequencerStep (s : State) : State :=
  if h : s.RND.val < 80 then doRound ⟨s.RND.val, h⟩ s else finishBlock { s with wait := 0 }

/-- The checks of PROCESS_BLOCK in the order of R186: E_NOT_INITIALIZED, then E_BAD_LENGTH. -/
def checkBlock (P : List Word) (s : State) : Except Status Block :=
  if s.INITIALIZED = false then .error .notInitialized
  else match blockOf P with
    | none => .error .badLength
    | some B => .ok B

/-- PROCESS_BLOCK(P) (R140). -/
def processBlock (P : List Word) (s : State) : State :=
  match checkBlock P s with
  | .error st => raise st s
  | .ok B => finishBlock (roundLoop 80 (beginBlock B s))

/-- The meaning of PROCESS_BLOCK (R140): a next state whatever the payload and the state. -/
def execProcessBlock (P : List Word) (s : State) : Host.Outcome State Fault Refusal := .next (processBlock P s)

end Sys2Proof.Machine
end

