-- ==== Sys2Proof/Machine/Variants.lean ====
section
/-! DEFINITION. INIT (R130) and READ_DIGEST (R150): the commands that select a variant and read the digest out. -/

namespace Sys2Proof.Machine

/-- INIT(v, P) (R130): accepted whatever `INITIALIZED` holds; a payload gets E_BAD_LENGTH. -/
def initVariant (v : Variant) (P : List Word) (s : State) : State :=
  if P.length ≠ 0 then raise .badLength s
  else respond .ok 0 [] (loadVariant v s)

/-- The meaning of INIT (R130). -/
def execInit (v : Variant) (P : List Word) (s : State) : Host.Outcome State Fault Refusal := .next (initVariant v P s)

/-- READ_DIGEST(P) (R150): E_NOT_INITIALIZED, then E_BAD_LENGTH (R186), else the truncated digest; no register is written. -/
def readDigest (P : List Word) (s : State) : State :=
  if s.INITIALIZED = false then raise .notInitialized s
  else if P.length ≠ 0 then raise .badLength s
  else respond .ok (outLen s.VAR) (trunc s.H (outLen s.VAR)) s

/-- The meaning of READ_DIGEST (R150). -/
def execReadDigest (P : List Word) (s : State) : Host.Outcome State Fault Refusal := .next (readDigest P s)

end Sys2Proof.Machine
end

