-- ==== Sys2Proof/Machine/Dispatch.lean ====
section
/-! DEFINITION. The one dispatch from a command to its meaning. -/

namespace Sys2Proof.Machine

def exec (i : Instr) (s : State) : Host.Outcome State Fault Refusal :=
  match i with
  | .init v P => Sys2Proof.Machine.execInit v P s
  | .processBlock P => Sys2Proof.Machine.execProcessBlock P s
  | .readDigest P => Sys2Proof.Machine.execReadDigest P s

end Sys2Proof.Machine
end

