-- ==== Sys2Proof/Machine/Fetch.lean ====
section
/-! DEFINITION. What the engine does next at the transaction level, and doing it. The order is the port's (R84): nothing while
reset lasts, the running block first, then the response not yet taken, then the next transaction. -/

namespace Sys2Proof.Machine

/-- What one step does (log entry 3). -/
inductive Action where
  /-- The edge after `rst` falls completes the reset event (R210). -/
  | endReset
  /-- BUSY: the sequencer's next action (R36). -/
  | sequence
  /-- The host takes the response (R80); until then no later transaction is let in (R84). -/
  | handOver (r : Response)
  /-- IDLE with nothing to do: the engine holds its state and waits (R198, R211). -/
  | await
  /-- The port takes the oldest waiting transaction whole, and the engine decodes and executes it (R58, R84). -/
  | take (t : Transaction) (rest : List Transaction)
  deriving DecidableEq, Repr

/-- The next action. A transaction that is arriving by beats (`rx` not empty) is waited for. -/
def nextAction (s : State) : Action :=
  if s.rstHeld = true then .endReset
  else match s.PHASE with
    | .busy => .sequence
    | .idle =>
      match s.tx, s.rx, s.inbox with
      | some r, _, _ => .handOver r.rsp
      | none, _ :: _, _ => .await
      | none, [], [] => .await
      | none, [], t :: rest => .take t rest

/-- Decode, then execute (R77): an illegal command word is answered before anything else is looked at (R186), and no state is
written (R183, R185). -/
def runTransaction (t : Transaction) (s : State) : Host.Outcome State Fault Refusal :=
  match decodeBeats t.beats with
  | .error _ => .next (raise .illegalCommand s)
  | .ok i => exec i s

/-- Doing one action. -/
def perform (act : Action) (s : State) : Host.Outcome State Fault Refusal :=
  match act with
  | .endReset => .next (resetEvent false s)
  | .sequence => .next (sequencerStep s)
  | .handOver r => .next (handOver r s)
  | .await => .next s
  | .take t rest => runTransaction t (letIn rest s)

/-- The port with `t` as the next transaction it lets in: IDLE, out of reset, nothing half received or half sent. -/
def presentTransaction (t : Transaction) (s : State) : State :=
  { s with PHASE := .idle, rx := [], tx := none, wait := 0, rstHeld := false, inbox := t :: s.inbox }

end Sys2Proof.Machine
end

