-- ==== Sys2Proof/Machine/Step.lean ====
section
/-! DEFINITION. One step of the machine at the transaction level (R226, D1), and how a test places a command in front of it. -/

namespace Sys2Proof.Machine

/-- One step: the next action, done. A command taken is executed whole, atomically (R55). -/
def step (s : State) : Host.Outcome State Fault Refusal := perform (nextAction s) s

/-- `s` with the transaction of the instruction whose bits are `w` presented at the port, so that the very next step takes and
runs it (log entries 4 and 5). -/
def State.withFetchWord (s : State) (nbits w : Nat) : State := presentTransaction (frameWord nbits w) s

end Sys2Proof.Machine
end

