-- ==== Sys2Proof/Machine/Assembler.lean ====
section
/-! DEFINITION. The textual syntax for command sequences (R87) and the pseudo-command HASH1 (R88). A line is a list of
characters; reading one is total. The engine never sees this syntax: it is notation for transactions (D25). -/

namespace Sys2Proof.Machine

/-- One line of a command sequence (R87, R88). -/
inductive AsmLine where
  /-- `INIT <variant>`. -/
  | init (v : Variant)
  /-- `BLOCK w0, ..., w15`; any count may be written, to spell E_BAD_LENGTH. -/
  | block (P : List Word)
  /-- `READ`. -/
  | read
  /-- `RAW c, p0, ...`: any encoding, illegal ones included. -/
  | raw (CMD : Word) (P : List Word)
  /-- `HASH1 <variant>, w0, ..., w15` (R88). -/
  | hash1 (v : Variant) (B : Block)
  deriving DecidableEq, Repr

/-- The transactions a line stands for (R87); HASH1 expands to INIT, BLOCK and READ, in that order (R88). -/
def assemble : AsmLine → List Transaction
  | .init v => [{ CMD := encodeWord (.init v []), P := [] }]
  | .block P => [{ CMD := encodeWord (.processBlock P), P := P }]
  | .read => [{ CMD := encodeWord (.readDigest []), P := [] }]
  | .raw CMD P => [{ CMD := CMD, P := P }]
  | .hash1 v B =>
    [ { CMD := encodeWord (.init v []), P := [] },
      { CMD := encodeWord (.processBlock B.toList), P := B.toList },
      { CMD := encodeWord (.readDigest []), P := [] } ]

/-- The 16 words of the padded "abc" block, which `BLOCK` writes as abc in braces (R87; 95_test_vectors.md section 1). -/
def abcBlock : Block :=
  #v[0x6162638000000000#64, 0#64, 0#64, 0#64, 0#64, 0#64, 0#64, 0#64,
     0#64, 0#64, 0#64, 0#64, 0#64, 0#64, 0#64, 0x0000000000000018#64]

/-- A blank: space or tab. -/
def isBlank (c : Char) : Bool := c == ' ' || c == '\t'

/-- A piece of text without the blanks around it. -/
def trim (cs : List Char) : List Char :=
  ((cs.dropWhile isBlank).reverse.dropWhile isBlank).reverse

/-- The value of a hexadecimal digit, in either case (log entry 16). -/
def hexDigit (c : Char) : Option Nat :=
  if '0'.toNat ≤ c.toNat ∧ c.toNat ≤ '9'.toNat then some (c.toNat - '0'.toNat)
  else if 'A'.toNat ≤ c.toNat ∧ c.toNat ≤ 'F'.toNat then some (c.toNat - 'A'.toNat + 10)
  else if 'a'.toNat ≤ c.toNat ∧ c.toNat ≤ 'f'.toNat then some (c.toNat - 'a'.toNat + 10)
  else none

/-- The values of a run of hexadecimal digits. -/
def hexDigits : List Char → Option (List Nat)
  | [] => some []
  | c :: cs =>
    match hexDigit c, hexDigits cs with
    | some d, some ds => some (d :: ds)
    | _, _ => none

/-- A hex literal of 1 to 16 digits after `0x`, an underscore between digits only a separator (R10), zero-extended to 64 bits
(R87). -/
def readWord (cs : List Char) : Option Word :=
  match cs with
  | '0' :: 'x' :: digits =>
    let groups := digits.splitOn '_'
    if groups.any List.isEmpty then none
    else match hexDigits groups.flatten with
      | none => none
      | some ds => if ds.length ≤ 16 then some (BitVec.ofNat 64 (ds.foldl (fun n d => 16 * n + d) 0)) else none
  | _ => none

/-- The name abc in braces. -/
def abcName : List Char := [Char.ofNat 0x7B, 'a', 'b', 'c', Char.ofNat 0x7D]

/-- One operand: a word, or the 16 words of the named block. -/
def readOperand (cs : List Char) : Option (List Word) :=
  if trim cs = abcName then some abcBlock.toList
  else (readWord (trim cs)).map fun w => [w]

/-- Operands separated by commas, in order. -/
def readPieces : List (List Char) → Option (List Word)
  | [] => some []
  | piece :: pieces =>
    match readOperand piece, readPieces pieces with
    | some ws, some rest => some (ws ++ rest)
    | _, _ => none

/-- An operand list; nothing written is no operand. -/
def readOperands (cs : List Char) : Option (List Word) :=
  if trim cs = [] then some [] else readPieces (cs.splitOn ',')

/-- The variant names of R87. -/
def readVariant (cs : List Char) : Option Variant :=
  let name := trim cs
  if name = ['S', 'H', 'A', '5', '1', '2'] then some .sha512
  else if name = ['S', 'H', 'A', '3', '8', '4'] then some .sha384
  else if name = ['S', 'H', 'A', '5', '1', '2', '_', '2', '2', '4'] then some .sha512_224
  else if name = ['S', 'H', 'A', '5', '1', '2', '_', '2', '5', '6'] then some .sha512_256
  else none

/-- A first operand, and the list after its comma. -/
def firstOperand (cs : List Char) : List Char × List Char :=
  (cs.takeWhile (· != ','), (cs.dropWhile (· != ',')).drop 1)

/-- The command a line names, with the text of its operands read (R87, R88). A comma after RAW's first word with nothing behind
it, which R87 does not write, is read as RAW with no payload (log entry 16: PRESUMED); a comma with nothing behind it at the
end of any longer list, or after a word of BLOCK, fits no line. -/
def readCommand (mnemonic operands : List Char) : Option AsmLine :=
  if mnemonic = ['I', 'N', 'I', 'T'] then (readVariant operands).map .init
  else if mnemonic = ['B', 'L', 'O', 'C', 'K'] then (readOperands operands).map .block
  else if mnemonic = ['R', 'E', 'A', 'D'] then (if operands = [] then some .read else none)
  else if mnemonic = ['R', 'A', 'W'] then
    match readWord (trim (firstOperand operands).1), readOperands (firstOperand operands).2 with
    | some c, some P => some (.raw c P)
    | _, _ => none
  else if mnemonic = ['H', 'A', 'S', 'H', '1'] then
    match readVariant (firstOperand operands).1, (readOperands (firstOperand operands).2).bind blockOf with
    | some v, some B => some (.hash1 v B)
    | _, _ => none
  else none

/-- One line of text: at most one command, `;` starting a comment (R87). The answer none is a line that does not fit the
syntax; an empty list is a line with no command. -/
def readLine (line : List Char) : Option (List AsmLine) :=
  let text := trim (line.takeWhile (· != ';'))
  if text = [] then some []
  else
    (readCommand (text.takeWhile (fun c => !isBlank c)) (trim (text.dropWhile (fun c => !isBlank c)))).map fun l => [l]

end Sys2Proof.Machine
end

