-- ==== Sys2Proof/Machine/Compress.lean ====
section
/-! DEFINITION. The compression function as one pure definition (R149), with local variables in place of the registers. The
machine does not call it: PROCESS_BLOCK runs the step rules, and that the two agree is a statement. -/

namespace Sys2Proof.Machine

/-- The loop of R149 from round i on: `n` rounds on the local window and the local registers. -/
def compressLoop : Nat → Fin 81 → Block → Working → Working
  | 0, _, _, r => r
  | n + 1, i, W, r =>
    if h : i.val < 80 then
      let w : Word :=
        if h16 : i.val < 16 then W[i.val]
        else sigma1 W[14] + W[9] + sigma0 W[1] + W[0]
      let W' : Block :=
        if i.val < 16 then W
        else #v[W[1], W[2], W[3], W[4], W[5], W[6], W[7], W[8], W[9], W[10], W[11], W[12], W[13], W[14], W[15], w]
      let t1 := T1 r.e r.f r.g r.h (K ⟨i.val, h⟩) w
      let t2 := T2 r.a r.b r.c
      compressLoop n ⟨i.val + 1, by omega⟩ W' ⟨t1 + t2, r.a, r.b, r.c, r.d + t1, r.e, r.f, r.g⟩
    else r

/-- What R149 returns: `(H[0]+a, H[1]+b, ..., H[7]+h)`. -/
def addRegisters (H : Digest) (r : Working) : Digest :=
  #v[H[0] + r.a, H[1] + r.b, H[2] + r.c, H[3] + r.d, H[4] + r.e, H[5] + r.f, H[6] + r.g, H[7] + r.h]

/-- `Compress(H, B)` of R149. -/
def compress (H : Digest) (B : Block) : Digest :=
  addRegisters H (compressLoop 80 0 B ⟨H[0], H[1], H[2], H[3], H[4], H[5], H[6], H[7]⟩)

end Sys2Proof.Machine
end

