-- ==== Sys2Proof/Config.lean ====
section
/-! DEFINITION. The parameters the spec leaves open (R8, R225; U6, U7). Each is a constant with no body: nothing can
evaluate it, so a claim that mentions one holds for every value. The fixed parameters of R7 (word width, 8 and 16 words, 80
rounds) are in the types, and the two ROMs are in Machine/Rom.lean. -/

namespace Sys2Proof.Config

/-- How many clock cycles beyond the first a PROCESS_BLOCK keeps the engine busy (R8: any positive integer). -/
opaque extraBlockCycles : Nat

/-- `BLOCK_LATENCY` of R8: at least 1. No rule of the transaction-level model depends on it. -/
def blockLatency : Nat := extraBlockCycles + 1

/-- The latency of every other response, which R225 leaves open too: cycles between taking the last beat of a transaction
and offering its response, by the number of responses the host has had before it and the transaction's beats, so that it may
differ from one response to the next. -/
opaque commandLatency : Nat → List Word → Nat

/-- How many engine instances a platform has beyond the first (R8). -/
opaque extraInstances : Nat

/-- `INSTANCE_COUNT` of R8: at least 1. -/
def instanceCount : Nat := extraInstances + 1

end Sys2Proof.Config
end

