-- ==== Sys2Proof/Machine/Port.lean ====
section
/-! DEFINITION. The signal level of the command port (R84) over the same state: one call of `edge` is one rising edge of `clk`.
The transaction level (Machine/Step.lean) is the normative one; this file adds the handshake, framing, back-pressure, reset at
any moment (R210) and the open latencies (R225), which are arguments, so that a claim holds for every latency. -/

namespace Sys2Proof.Machine

/-- One beat of the stream: its word, and whether it is the final one of its transaction (R84). -/
structure Beat where
  data : Word
  last : Bool
  deriving DecidableEq, Repr

/-- The input signals sampled at one rising edge (R84). -/
structure PortIn where
  rst : Bool
  in_valid : Bool
  in_data : Word
  in_last : Bool
  out_ready : Bool
  deriving DecidableEq, Repr

/-- The output signals (R84). `out` is `out_data` with `out_last` when `out_valid` is high and none when it is low: the spec
gives the data lines no meaning then (log entry 6). -/
structure PortOut where
  in_ready : Bool
  out : Option Beat
  deriving DecidableEq, Repr

/-- `in_ready`: low while `rst` is high, while `PHASE = BUSY`, and while a response is not yet fully taken (R84); low too at the
edge that completes the reset event (log entry 7). -/
def inReady (rst : Bool) (s : State) : Bool :=
  !rst && !s.rstHeld && decide (s.PHASE = .idle) && s.tx.isNone

/-- The response beat on offer: `RSP`, then `Q[0..RLEN-1]` (R84), once the latency has passed (R225). Nothing is offered while
reset lasts (log entry 8). The next beat of a response is on offer as soon as the one before it is taken: `out_valid` is never
low between two beats of one response (log entry 18: DESIGN CHOICE). -/
def outBeat (rst : Bool) (s : State) : Option Beat :=
  if rst = true ∨ s.rstHeld = true ∨ s.PHASE = .busy ∨ s.wait ≠ 0 then none
  else match s.tx with
    | none => none
    | some r =>
      match r.rsp.beats.drop r.sent with
      | [] => none
      | w :: rest => some { data := w, last := rest.isEmpty }

/-- The output signals in a state, with `rst` as it is. -/
def outputs (rst : Bool) (s : State) : PortOut := { in_ready := inReady rst s, out := outBeat rst s }

/-- The engine begins a decoded command: a block that passes its checks keeps it BUSY for `BL` cycles (R8, D17); every other
answer is ready after `cl` cycles. -/
def beginCommand (BL cl : Nat) (i : Instr) (s : State) : State :=
  match i with
  | .init v P => { initVariant v P s with wait := cl }
  | .readDigest P => { readDigest P s with wait := cl }
  | .processBlock P =>
    match checkBlock P s with
    | .error st => { raise st s with wait := cl }
    | .ok B => { beginBlock B s with wait := BL }

/-- The last beat has come: decode the whole framed transaction and begin it (R78, R84). -/
def beginTransaction (BL cl : Nat) (beats : List Word) (s : State) : State :=
  match decodeBeats beats with
  | .error _ => { raise .illegalCommand s with wait := cl }
  | .ok i => beginCommand BL cl i s

/-- A beat moves in (R84): it joins the transaction being received, which is executed only once its last beat has come. -/
def takeBeat (BL : Nat) (CL : Nat → List Word → Nat) (b : Beat) (s : State) : State :=
  let received := s.rx ++ [b.data]
  if b.last = true then beginTransaction BL (CL s.outbox.length received) received { s with rx := [] }
  else { s with rx := received }

/-- A response beat moves out: the host has taken one more, and with the final one the whole response (R84). No cycles pass before
the next beat is offered (log entry 18: DESIGN CHOICE). -/
def giveBeat (r : Sending) (s : State) : State :=
  if r.sent < r.rsp.Q.length then { s with tx := some { r with sent := r.sent + 1 } }
  else handOver r.rsp s

/-- One busy cycle (R36, R145): a round, while more than one cycle is left; in the last cycle whatever rounds remain, then the
fold and the response (log entry 9: only the number of cycles shows). -/
def busyEdge (s : State) : State :=
  if s.wait ≤ 1 then { finishBlock (roundLoop 80 s) with wait := 0 }
  else { roundLoop 1 s with wait := s.wait - 1 }

/-- The state after one rising edge of `clk` with the given inputs. `BL` is `BLOCK_LATENCY` (R8); `CL` gives the latency of
every other answer, by the number of responses before it and the beats of its transaction (R225). A beat
moves when valid and ready are both high (R84). -/
def edge (BL : Nat) (CL : Nat → List Word → Nat) (i : PortIn) (s : State) : State :=
  if i.rst = true then resetEvent true s
  else if s.rstHeld = true then resetEvent false s
  else match s.PHASE with
    | .busy => busyEdge s
    | .idle =>
      match s.tx with
      | some r =>
        if s.wait ≠ 0 then { s with wait := s.wait - 1 }
        else if i.out_ready = true then giveBeat r s
        else s
      | none =>
        if i.in_valid = true then takeBeat BL CL { data := i.in_data, last := i.in_last } s
        else s

/-- The engine's own clock edge, with the parameters of Config. -/
def clock (i : PortIn) (s : State) : State := edge Config.blockLatency Config.commandLatency i s

/-- The state after a list of edges. -/
def edges (BL : Nat) (CL : Nat → List Word → Nat) : List PortIn → State → State
  | [], s => s
  | i :: is, s => edges BL CL is (edge BL CL i s)

/-- The response beats that move during a list of edges, in order: those on offer at an edge where `out_ready` is high. -/
def beatsTaken (BL : Nat) (CL : Nat → List Word → Nat) : List PortIn → State → List Beat
  | [], _ => []
  | i :: is, s =>
    (if i.out_ready = true then (outBeat i.rst s).toList else []) ++ beatsTaken BL CL is (edge BL CL i s)

/-- The output signals seen at each of a list of edges. -/
def outputsSeen (BL : Nat) (CL : Nat → List Word → Nat) : List PortIn → State → List PortOut
  | [], _ => []
  | i :: is, s => outputs i.rst s :: outputsSeen BL CL is (edge BL CL i s)

/-- The inputs with which a host offers the beats of a transaction, one an edge, `in_last` on the final one. -/
def offerBeats : List Word → List PortIn
  | [] => []
  | w :: ws =>
    { rst := false, in_valid := true, in_data := w, in_last := ws.isEmpty, out_ready := false } :: offerBeats ws

/-- `n` edges with no beat offered; `ready` is `out_ready`. -/
def quietEdges (n : Nat) (ready : Bool) : List PortIn :=
  List.replicate n { rst := false, in_valid := false, in_data := 0#64, in_last := false, out_ready := ready }

end Sys2Proof.Machine
end

