-- ==== Sys2Proof/Machine/Platform.lean ====
section
/-! DEFINITION. A platform of `n` engine instances (R8, R196): each has its own registers and its own command port, and they
share nothing but the constant ROMs (R28). -/

namespace Sys2Proof.Machine

/-- The instances of a platform. -/
abbrev Platform (n : Nat) := Vector State n

/-- A platform with the number of instances of Config. -/
abbrev ThePlatform := Platform Config.instanceCount

/-- Instances start together at reset (R196). -/
def Platform.reset (n : Nat) : Platform n := Vector.replicate n State.reset

/-- Instance k makes one step; the others stay as they are (R59). -/
def Platform.stepAt {n : Nat} (k : Fin n) (p : Platform n) : Host.Outcome (Platform n) Fault Refusal :=
  match step p[k] with
  | .next t => .next (p.set k t)
  | .fault r => .fault r
  | .refused r => .refused r

/-- One clock edge of the platform: one `rst` for all (R196), a port of its own for each. That the instances share one `clk`, one
`BLOCK_LATENCY` and one function of the other latencies is the model's choice (log entry 17: DESIGN CHOICE). -/
def Platform.edge {n : Nat} (BL : Nat) (CL : Nat → List Word → Nat) (rst : Bool) (ins : Vector PortIn n) (p : Platform n) :
    Platform n :=
  Vector.ofFn fun k : Fin n => Machine.edge BL CL { ins[k] with rst := rst } p[k]

end Sys2Proof.Machine
end

