-- ==== Sys2Proof/Machine/Schedule.lean ====
section
/-! DEFINITION. The message schedule seen through the sliding window of R144 and through the circular buffer R152 permits in
its place. The machine uses the window; that the two give the same words, and that the words are the sequence of R153, are
statements. -/

namespace Sys2Proof.Machine

/-- The window before round i, from the block it was loaded with (R141, R144). -/
def windowBefore (B : Block) : Nat → Block
  | 0 => B
  | i + 1 => windowStep i (windowBefore B i)

/-- `w_i`: the schedule word of round i (R143, R153). -/
def scheduleWord (B : Block) (i : Nat) : Word := SCHED i (windowBefore B i)

/-- The schedule word of round i read from a circular buffer (R152). -/
def circularWord (i : Nat) (C : Block) : Word :=
  if i < 16 then C[i % 16]
  else sigma1 C[(i - 2) % 16] + C[(i - 7) % 16] + sigma0 C[(i - 15) % 16] + C[i % 16]

/-- The circular buffer after round i: `C[i mod 16] <- w` for i >= 16 (R152). -/
def circularStep (i : Nat) (C : Block) : Block :=
  if 16 ≤ i then C.set (i % 16) (circularWord i C) else C

/-- The circular buffer before round i, loaded as `C[j] = B[j]` (R152). -/
def circularBefore (B : Block) : Nat → Block
  | 0 => B
  | i + 1 => circularStep i (circularBefore B i)

end Sys2Proof.Machine
end

