-- ==== Sys2Proof/Safety.lean ====
section
/-! DEFINITION. The terms claims are made in: when the engine is ready for a command, which responses can occur, the invariant
every step keeps, and what the host can tell apart. -/

namespace Sys2Proof.Machine

/-- The engine is IDLE, out of reset, and its port is empty: the state in which it takes a command (R84, R211). -/
structure State.Ready (s : State) : Prop where
  outOfReset : s.rstHeld = false
  idle : s.PHASE = .idle
  nothingSent : s.tx = none
  nothingReceived : s.rx = []
  noWait : s.wait = 0

/-- The header words that can occur, with the number of payload words each announces (R82). -/
def responseTable : List (Word × Nat) :=
  [ (0x0000000000000000#64, 0), (0x0000000002000800#64, 8), (0x0000000001800600#64, 6), (0x0000000000E00400#64, 4),
    (0x0000000001000400#64, 4), (0x0000000000000001#64, 0), (0x0000000000000002#64, 0), (0x0000000000000003#64, 0) ]

/-- A response of the table of R82: its header, and as many payload words as RLEN says. -/
abbrev Response.Listed (r : Response) : Prop := (r.RSP, r.Q.length) ∈ responseTable

/-- The STATUS field of a header word (R81). -/
def statusField (RSP : Word) : BitVec 4 := RSP.extractLsb' 0 4

/-- The RLEN field of a header word (R81). -/
def rlenField (RSP : Word) : BitVec 8 := RSP.extractLsb' 8 8

/-- The OUTBITS field of a header word (R81). -/
def outbitsField (RSP : Word) : BitVec 16 := RSP.extractLsb' 16 16

/-- The invariant of the engine and its port: a block runs only after INIT, with no response pending and nothing being
received; a response pending means nothing is being received; every response is one of R82, and the beats already taken are
fewer than it has; the latency counter runs only for a block or a response; and reset leaves the engine idle and
uninitialised. -/
structure State.Inv (s : State) : Prop where
  busyAfterInit : s.PHASE = .busy → s.INITIALIZED = true
  busyPortEmpty : s.PHASE = .busy → s.tx = none ∧ s.rx = []
  oneTransaction : s.tx ≠ none → s.rx = []
  pendingListed : ∀ r, s.tx = some r → r.rsp.Listed ∧ r.sent ≤ r.rsp.Q.length
  givenListed : ∀ r ∈ s.outbox, r.Listed
  waitHasCause : s.PHASE = .idle → s.tx = none → s.wait = 0
  resetIdle : s.rstHeld = true → s.PHASE = .idle ∧ s.tx = none ∧ s.rx = [] ∧ s.INITIALIZED = false

/-- Two states the host cannot tell apart by what R35 lists: the port, `INITIALIZED` and `PHASE` agree; `H` and `VAR` agree once
they hold a value (R23); and the registers of the block in progress agree while there is one. Nothing is asked of `W`, `a..h`
and `RND` while IDLE, nor of `H` and `VAR` before INIT (R24, R25, R36, R37). -/
structure SameToHost (s t : State) : Prop where
  initialized : s.INITIALIZED = t.INITIALIZED
  phase : s.PHASE = t.PHASE
  digest : s.INITIALIZED = true → s.H = t.H ∧ s.VAR = t.VAR
  block : s.PHASE = .busy → s.H = t.H ∧ s.W = t.W ∧ s.regs = t.regs ∧ s.RND = t.RND
  rx : s.rx = t.rx
  tx : s.tx = t.tx
  wait : s.wait = t.wait
  rstHeld : s.rstHeld = t.rstHeld
  inbox : s.inbox = t.inbox
  outbox : s.outbox = t.outbox

/-- The value of `concat(L)`, the first word most significant (R13). -/
def concatWords (L : List Word) : Nat := L.foldl (fun n w => n * 2 ^ 64 + w.toNat) 0

/-- The header of a READ_DIGEST response with status OK, by variant (R82). -/
def digestHeader : Variant → Word
  | .sha512 => 0x0000000002000800#64
  | .sha384 => 0x0000000001800600#64
  | .sha512_224 => 0x0000000000E00400#64
  | .sha512_256 => 0x0000000001000400#64

/-- The response of INIT and PROCESS_BLOCK with status OK (R82). -/
def okResponse : Response := { RSP := 0#64, Q := [] }

/-- The response to a READ_DIGEST with status OK of variant `v` and digest state `H` (R82, R150). -/
def digestResponse (v : Variant) (H : Digest) : Response := { RSP := digestHeader v, Q := trunc H (outLen v) }

/-- The error responses of R82: header 1, 2 or 3 and no payload. -/
def errorResponse : Status → Response
  | .ok => okResponse
  | .badLength => { RSP := 0x0000000000000001#64, Q := [] }
  | .notInitialized => { RSP := 0x0000000000000002#64, Q := [] }
  | .illegalCommand => { RSP := 0x0000000000000003#64, Q := [] }

/-- A response just given: no beat of it taken yet (R80). -/
def offered (r : Response) : Option Sending := some { rsp := r, sent := 0 }

/-- The transactions of the three commands. -/
def initTransaction (v : Variant) : Transaction := { CMD := encodeWord (.init v []), P := [] }

/-- PROCESS_BLOCK with the block `B`. -/
def blockTransaction (B : Block) : Transaction := { CMD := encodeWord (.processBlock B.toList), P := B.toList }

/-- READ_DIGEST. -/
def readTransaction : Transaction := { CMD := encodeWord (.readDigest []), P := [] }

/-- The primes below `n`, in order: what R30 and R31 take the roots of. -/
def primesBelow (n : Nat) : List Nat :=
  (List.range n).filter fun p => decide (1 < p ∧ ∀ d < p, d ∣ p → d = 1)

/-- `n` steps from a state, in the host's interface. -/
def run (n : Nat) (s : State) : Host.Outcome State Fault Refusal := Host.Core.run Sys2Proof.core n s

/-- A transaction that starts the 80 rounds: PROCESS_BLOCK with 16 words on an initialised engine (R140). -/
def startsBlock (t : Transaction) (s : State) : Bool :=
  match decodeBeats t.beats with
  | .ok (.processBlock P) => s.INITIALIZED && P.length == 16
  | _ => false

/-- The step from `s` to `t` took the transaction `c`: out of reset, IDLE, with nothing to send and nothing half received (R84),
and `c` was the oldest waiting transaction and waits no more. -/
structure State.Takes (s : State) (c : Transaction) (t : State) : Prop where
  outOfReset : s.rstHeld = false
  idle : s.PHASE = .idle
  nothingSent : s.tx = none
  nothingReceived : s.rx = []
  taken : s.inbox = c :: t.inbox

/-- A step leaves the registers of R20 as they are: no `H`, `VAR`, `INITIALIZED`, `W`, `a..h`, `PHASE` or `RND` is written. -/
structure SameRegisters (s t : State) : Prop where
  H : t.H = s.H
  VAR : t.VAR = s.VAR
  INITIALIZED : t.INITIALIZED = s.INITIALIZED
  W : t.W = s.W
  regs : t.regs = s.regs
  PHASE : t.PHASE = s.PHASE
  RND : t.RND = s.RND

end Sys2Proof.Machine
end

