-- ==== Sys2Proof/Certificates/Slice0/Obligations.lean ====
section
/-! DEFINITION. The statements about the model, for the provers. Each docstring names the rule it formalises. -/

open Sys2Proof Sys2Proof.Machine

/-! ### Encoding -/

/-- R71 to R73, R86: decoding the words of a command gives the command back, whatever its operands. -/
def Obligations.DecodeOfEncodeIsTheCommand : Prop :=
  ∀ i : Instr, decodeBeats (encode i) = .ok i

/-- R77: a transaction that decodes to a command is exactly the words of that command: no other word decodes to it. -/
def Obligations.EncodeOfDecodeIsTheTransaction : Prop :=
  ∀ (t : Transaction) (i : Instr), decodeBeats t.beats = .ok i → encode i = t.beats

/-- R86: a word decodes to a command exactly when it matches that command's row; no word matches two rows; a word that
matches no row is illegal; and the four INIT encodings are 0x01, 0x11, 0x21 and 0x31. -/
def Obligations.OpcodeMapDecidesDecoding : Prop :=
  (∀ (CMD : Word) (P : List Word) (row : OpcodeRow), row ∈ opcodeMap →
      (row.matches CMD = true ↔ ∃ i, decode CMD P = .ok i ∧ i.mnemonic = row.mnemonic)) ∧
  (∀ (CMD : Word) (row row' : OpcodeRow), row ∈ opcodeMap → row' ∈ opcodeMap →
      row.matches CMD = true → row'.matches CMD = true → row = row') ∧
  (∀ (CMD : Word) (P : List Word), (∀ row ∈ opcodeMap, row.matches CMD = false) → ∃ why, decode CMD P = .error why) ∧
  (∀ (v : Variant) (P : List Word), encodeWord (.init v P) =
      match v with
      | .sha512 => 0x01#64
      | .sha384 => 0x11#64
      | .sha512_224 => 0x21#64
      | .sha512_256 => 0x31#64)

/-- R74, R85: a reserved OP, a nonzero RSV field, or a nonzero VAR field under an opcode other than INIT is illegal, and nothing
else is. Each is answered with E_ILLEGAL_COMMAND and changes no state; OP = 0x0 is not a no-op. -/
def Obligations.ReservedEncodingsAreIllegal : Prop :=
  (∀ (CMD : Word) (P : List Word),
    ((∃ why, decode CMD P = .error why) ↔
      (rsvField CMD ≠ 0#58 ∨
        (opField CMD ≠ 0x1#4 ∧ varField CMD ≠ 0#2) ∨
        (opField CMD ≠ 0x1#4 ∧ opField CMD ≠ 0x2#4 ∧ opField CMD ≠ 0x3#4)))) ∧
  (∀ (s : State) (t : Transaction) (rest : List Transaction), s.Ready → s.inbox = t :: rest →
    (rsvField t.CMD ≠ 0#58 ∨
      (opField t.CMD ≠ 0x1#4 ∧ varField t.CMD ≠ 0#2) ∨
      (opField t.CMD ≠ 0x1#4 ∧ opField t.CMD ≠ 0x2#4 ∧ opField t.CMD ≠ 0x3#4)) →
    step s = .next { s with inbox := rest, tx := offered (errorResponse .illegalCommand) })

/-- R77, on words written out from the encoding of R71: the six legal ones and eight that are illegal. (R77 has
one answer ILLEGAL; its split by cause is the model's choice, log entry 12.) -/
def Obligations.WrittenWordsDecode : Prop :=
  ∀ P : List Word,
    decode 0b000000_0001#64 P = .ok (.init .sha512 P) ∧
    decode 0b000001_0001#64 P = .ok (.init .sha384 P) ∧
    decode 0b000010_0001#64 P = .ok (.init .sha512_224 P) ∧
    decode 0b000011_0001#64 P = .ok (.init .sha512_256 P) ∧
    decode 0b000000_0010#64 P = .ok (.processBlock P) ∧
    decode 0b000000_0011#64 P = .ok (.readDigest P) ∧
    decode 0x0000000000000000#64 P = .error .reservedOp ∧
    decode 0x0000000000000004#64 P = .error .reservedOp ∧
    decode 0x000000000000000F#64 P = .error .reservedOp ∧
    decode 0x0000000000000012#64 P = .error .varNonzero ∧
    decode 0x0000000000000033#64 P = .error .varNonzero ∧
    decode 0x0000000000000041#64 P = .error .rsvNonzero ∧
    decode 0x8000000000000001#64 P = .error .rsvNonzero ∧
    decode 0x0000000000001002#64 P = .error .rsvNonzero

/-! ### The round primitives -/

/-- R101: bit j of `rotr(x, r)` is bit `(j + r) mod 64` of `x`, and `rotr(x, 0) = x`. -/
def Obligations.RotrMovesEveryBit : Prop :=
  (∀ (x : Word) (r : Fin 64) (j : Nat), j < 64 → (rotr x r).getLsbD j = x.getLsbD ((j + r.val) % 64)) ∧
  (∀ x : Word, rotr x 0 = x)

/-- R102: `shr(x, r)` moves bit `j + r` to bit j, its top r bits are 0, and it is division by `2^r`. -/
def Obligations.ShrFillsWithZeros : Prop :=
  ∀ (x : Word) (r : Fin 64),
    (∀ j, j + r.val < 64 → (shr x r).getLsbD j = x.getLsbD (j + r.val)) ∧
    (∀ j, 64 ≤ j + r.val → (shr x r).getLsbD j = false) ∧
    (shr x r).toNat = x.toNat / 2 ^ r.val

/-- R103, R104: each bit of `Ch` is the `y` bit where the `x` bit is 1 and the `z` bit where it is 0; each bit of `Maj` is the
majority of the three bits; `Maj` does not depend on the order of its operands; and the corner cases of the two rules. -/
def Obligations.ChChoosesAndMajVotes : Prop :=
  (∀ (x y z : Word) (j : Nat), j < 64 →
    (Ch x y z).getLsbD j = (if x.getLsbD j then y.getLsbD j else z.getLsbD j) ∧
    (Maj x y z).getLsbD j = decide (2 ≤ (x.getLsbD j).toNat + (y.getLsbD j).toNat + (z.getLsbD j).toNat)) ∧
  (∀ x y z : Word, Ch x y z = (x &&& y) ^^^ (~~~x &&& z) ∧
    Maj x y z = (x &&& y) ^^^ (x &&& z) ^^^ (y &&& z) ∧
    Ch (BitVec.allOnes 64) y z = y ∧ Ch 0#64 y z = z ∧ Ch x y y = y ∧
    Maj x y z = Maj y x z ∧ Maj x y z = Maj x z y ∧ Maj x x y = x ∧ Maj x (~~~x) z = z)

/-- R105 to R108, bit by bit, with the amounts of R109: the third terms of `sigma0` and `sigma1` are shifts, the rest are
rotations; all four functions are linear over XOR; and their values at 0 and all ones. -/
def Obligations.SigmaFunctionsBitByBit : Prop :=
  (∀ (x : Word) (j : Nat), j < 64 →
    (SIGMA0 x).getLsbD j =
      ((x.getLsbD ((j + 28) % 64) ^^ x.getLsbD ((j + 34) % 64)) ^^ x.getLsbD ((j + 39) % 64)) ∧
    (SIGMA1 x).getLsbD j =
      ((x.getLsbD ((j + 14) % 64) ^^ x.getLsbD ((j + 18) % 64)) ^^ x.getLsbD ((j + 41) % 64)) ∧
    (sigma0 x).getLsbD j =
      ((x.getLsbD ((j + 1) % 64) ^^ x.getLsbD ((j + 8) % 64)) ^^ (decide (j + 7 < 64) && x.getLsbD (j + 7))) ∧
    (sigma1 x).getLsbD j =
      ((x.getLsbD ((j + 19) % 64) ^^ x.getLsbD ((j + 61) % 64)) ^^ (decide (j + 6 < 64) && x.getLsbD (j + 6)))) ∧
  (∀ x y : Word, SIGMA0 (x ^^^ y) = SIGMA0 x ^^^ SIGMA0 y ∧ SIGMA1 (x ^^^ y) = SIGMA1 x ^^^ SIGMA1 y ∧
    sigma0 (x ^^^ y) = sigma0 x ^^^ sigma0 y ∧ sigma1 (x ^^^ y) = sigma1 x ^^^ sigma1 y) ∧
  (SIGMA0 0#64 = 0#64 ∧ SIGMA1 0#64 = 0#64 ∧ sigma0 0#64 = 0#64 ∧ sigma1 0#64 = 0#64 ∧
    SIGMA0 (BitVec.allOnes 64) = BitVec.allOnes 64 ∧ SIGMA1 (BitVec.allOnes 64) = BitVec.allOnes 64 ∧
    sigma0 (BitVec.allOnes 64) = 0x01FFFFFFFFFFFFFF#64 ∧ sigma1 (BitVec.allOnes 64) = 0x03FFFFFFFFFFFFFF#64)

/-- R110 to R112: `add64`, `T1` and `T2` are the exact sums of their terms modulo 2^64, whatever the size of the true sum. -/
def Obligations.MixingTransformsAreExactSumsModulo : Prop :=
  (∀ x y : Word, (add64 x y).toNat = (x.toNat + y.toNat) % 2 ^ 64 ∧ add64 x y = add64 y x) ∧
  (∀ x y z : Word, add64 (add64 x y) z = add64 x (add64 y z)) ∧
  (∀ e f g h k w : Word, (T1 e f g h k w).toNat =
    (h.toNat + (SIGMA1 e).toNat + (Ch e f g).toNat + k.toNat + w.toNat) % 2 ^ 64) ∧
  (∀ a b c : Word, (T2 a b c).toNat = ((SIGMA0 a).toNat + (Maj a b c).toNat) % 2 ^ 64)

/-! ### The constant tables -/

/-- R30: `K[i]` is the first 64 bits of the fractional part of the cube root of the i-th of the first 80 primes. -/
def Obligations.RoundConstantsAreCubeRootFractions : Prop :=
  (primesBelow 410).length = 80 ∧
  ∀ pk ∈ (primesBelow 410).zip kTable.toList,
    ∃ q < 8, (q * 2 ^ 64 + pk.2.toNat) ^ 3 ≤ pk.1 * 2 ^ 192 ∧ pk.1 * 2 ^ 192 < (q * 2 ^ 64 + pk.2.toNat + 1) ^ 3

/-- R31: the words of `IV(SHA-512)` and `IV(SHA-384)` are the first 64 bits of the fractional parts of the square roots of the
first eight and of the ninth to sixteenth primes. -/
def Obligations.InitialValuesAreSquareRootFractions : Prop :=
  (primesBelow 54).length = 16 ∧
  ∀ pv ∈ (primesBelow 54).zip ((IV .sha512).toList ++ (IV .sha384).toList),
    ∃ q < 8, (q * 2 ^ 64 + pv.2.toNat) ^ 2 ≤ pv.1 * 2 ^ 128 ∧ pv.1 * 2 ^ 128 < (q * 2 ^ 64 + pv.2.toNat + 1) ^ 2

/-- R32: the SHA-512/224 and SHA-512/256 initial values are what one PROCESS_BLOCK of the padded variant name leaves in `H`,
from the SHA-512 initial value with every byte XORed with 0xA5. -/
def Obligations.TruncatedVariantsAreGenerated : Prop :=
  ∀ e ∈ [ (Variant.sha512_224, 0x5348412D3531322F#64, 0x3232348000000000#64),
          (Variant.sha512_256, 0x5348412D3531322F#64, 0x3235368000000000#64) ],
    ∃ t : State,
      exec (.processBlock ([e.2.1, e.2.2] ++ List.replicate 13 0#64 ++ [0x58#64]))
        { State.reset with INITIALIZED := true, H := (IV .sha512).map (· ^^^ 0xA5A5A5A5A5A5A5A5#64) } = .next t ∧
      t.H = IV e.1

/-! ### The commands -/

/-- R130: the words 0x01, 0x11, 0x21 and 0x31 are INIT of the four variants; INIT with an empty payload completes in every
state, writing `VAR`, all of `H` and `INITIALIZED` and nothing else, and is answered OK; with a payload it is answered
E_BAD_LENGTH and writes nothing. -/
def Obligations.InitLoadsVariant : Prop :=
  (∀ P : List Word,
    decodeBeats (0x01#64 :: P) = .ok (.init .sha512 P) ∧ decodeBeats (0x11#64 :: P) = .ok (.init .sha384 P) ∧
    decodeBeats (0x21#64 :: P) = .ok (.init .sha512_224 P) ∧ decodeBeats (0x31#64 :: P) = .ok (.init .sha512_256 P)) ∧
  (∀ (v : Variant) (s : State),
    exec (.init v []) s =
      .next { s with VAR := v, H := IV v, INITIALIZED := true, tx := offered okResponse }) ∧
  (∀ (v : Variant) (P : List Word) (s : State), P ≠ [] →
    exec (.init v P) s = .next { s with tx := offered (errorResponse .badLength) })

/-- R149: on an initialised engine PROCESS_BLOCK with 16 words completes, `H` becomes `Compress(H, B)` for every `H` and every
block, the engine is IDLE again and answers OK, and `VAR`, `INITIALIZED` and the rest of the port are as they were. (The
contents of `W`, `a..h` and `RND` afterwards are left out: no claim may read them.) -/
def Obligations.ProcessBlockIsCompress : Prop :=
  ∀ (B : Block) (s : State), s.INITIALIZED = true →
    ∃ t : State, exec (.processBlock B.toList) s = .next t ∧
      t.H = compress s.H B ∧ t.VAR = s.VAR ∧ t.INITIALIZED = true ∧ t.PHASE = .idle ∧
      t.tx = offered okResponse ∧ t.rx = s.rx ∧ t.wait = s.wait ∧ t.rstHeld = s.rstHeld ∧
      t.inbox = s.inbox ∧ t.outbox = s.outbox

/-- R150, with the payloads of R151 and the headers of R82 written out: the word 0x03 is READ_DIGEST, which on an initialised
engine completes and writes no register; before INIT it is E_NOT_INITIALIZED, and with a payload E_BAD_LENGTH. -/
def Obligations.ReadDigestReturnsTruncatedDigest : Prop :=
  (∀ P : List Word, decodeBeats (0x03#64 :: P) = .ok (.readDigest P)) ∧
  (∀ s : State, s.INITIALIZED = true →
    exec (.readDigest []) s = .next
      { s with
        tx := offered
          (match s.VAR with
           | .sha512 => { RSP := 0x0000000002000800#64, Q := s.H.toList }
           | .sha384 => { RSP := 0x0000000001800600#64, Q := [s.H[0], s.H[1], s.H[2], s.H[3], s.H[4], s.H[5]] }
           | .sha512_224 =>
             { RSP := 0x0000000000E00400#64, Q := [s.H[0], s.H[1], s.H[2], s.H[3] &&& 0xFFFFFFFF00000000#64] }
           | .sha512_256 => { RSP := 0x0000000001000400#64, Q := [s.H[0], s.H[1], s.H[2], s.H[3]] }) }) ∧
  (∀ (P : List Word) (s : State), s.INITIALIZED = false →
    exec (.readDigest P) s = .next { s with tx := offered (errorResponse .notInitialized) }) ∧
  (∀ (P : List Word) (s : State), s.INITIALIZED = true → P ≠ [] →
    exec (.readDigest P) s = .next { s with tx := offered (errorResponse .badLength) })

/-- R151: the payload of a read-out, as one number, is the t most significant bits of `H[0] || ... || H[7]` followed by zeros up
to a whole number of words. -/
def Obligations.TruncKeepsTheTopBits : Prop :=
  ∀ (v : Variant) (H : Digest),
    (trunc H (outLen v)).length = wordsFor (outLen v) ∧
    concatWords (trunc H (outLen v)) =
      concatWords H.toList / 2 ^ (512 - outLen v) * 2 ^ (64 * wordsFor (outLen v) - outLen v)

/-- R181, R182, R186: on a transaction the port takes, the error that is reported is the first that applies, in the order
illegal word, not initialised, wrong length; and in each case the one response is all that changes. -/
def Obligations.FirstErrorInOrderIsReported : Prop :=
  ∀ (s : State) (t : Transaction) (rest : List Transaction), s.Ready → s.inbox = t :: rest →
    (∀ why, decodeBeats t.beats = .error why →
      step s = .next { s with inbox := rest, tx := offered (errorResponse .illegalCommand) }) ∧
    (∀ P, decodeBeats t.beats = .ok (.processBlock P) ∨ decodeBeats t.beats = .ok (.readDigest P) →
      s.INITIALIZED = false →
      step s = .next { s with inbox := rest, tx := offered (errorResponse .notInitialized) }) ∧
    (∀ P, decodeBeats t.beats = .ok (.processBlock P) → s.INITIALIZED = true → P.length ≠ 16 →
      step s = .next { s with inbox := rest, tx := offered (errorResponse .badLength) }) ∧
    (∀ P, decodeBeats t.beats = .ok (.readDigest P) → s.INITIALIZED = true → P.length ≠ 0 →
      step s = .next { s with inbox := rest, tx := offered (errorResponse .badLength) }) ∧
    (∀ v P, decodeBeats t.beats = .ok (.init v P) → P.length ≠ 0 →
      step s = .next { s with inbox := rest, tx := offered (errorResponse .badLength) })

/-- R185: a command answered with a status other than OK writes no state: its only effect is the response. The engine is then
IDLE, in the very state it was in apart from the response on offer, so no error is sticky. -/
def Obligations.FailedCommandWritesNothing : Prop :=
  (∀ (i : Instr) (s t : State) (r : Response), exec i s = .next t → t.tx = offered r → statusField r.RSP ≠ 0#4 →
    t = { s with tx := offered r }) ∧
  (∀ (s u : State) (c : Transaction) (rest : List Transaction) (r : Response),
    s.Ready → s.inbox = c :: rest → step s = .next u → u.tx = offered r → statusField r.RSP ≠ 0#4 →
    u = { s with inbox := rest, tx := offered r } ∧ u.PHASE = .idle)

/-- R75, R181: on an initialised engine a command is answered OK exactly when it has the number of payload words its row
requires, and E_BAD_LENGTH otherwise. -/
def Obligations.WellFormedCommandsAreAnsweredOk : Prop :=
  ∀ (i : Instr) (s : State), s.INITIALIZED = true →
    ∃ (t : State) (r : Response), exec i s = .next t ∧ t.tx = offered r ∧
      (i.wellFormed = true → statusField r.RSP = 0#4) ∧
      (i.wellFormed = false → r = errorResponse .badLength)

/-- R21 to R23: outside reset, a step that changes `VAR` or `INITIALIZED` took an INIT with no payload; a step that changes `H`
took such an INIT, took a block on an initialised engine and left `H` compressed with it, or was the fold of a running block.
(What one step is, is the model's choice, log entry 3.) -/
def Obligations.WritersOfDigestVariantAndFlag : Prop :=
  ∀ s t : State, step s = .next t → s.rstHeld = false →
    ((t.VAR ≠ s.VAR ∨ t.INITIALIZED ≠ s.INITIALIZED) →
      ∃ (v : Variant) (c : Transaction),
        s.Takes c t ∧ decodeBeats c.beats = .ok (.init v []) ∧ t.VAR = v ∧ t.INITIALIZED = true ∧ t.H = IV v) ∧
    (t.H ≠ s.H →
      (∃ (v : Variant) (c : Transaction),
        s.Takes c t ∧ decodeBeats c.beats = .ok (.init v []) ∧ t.VAR = v ∧ t.INITIALIZED = true ∧ t.H = IV v) ∨
      (∃ (B : Block) (c : Transaction),
        s.Takes c t ∧ decodeBeats c.beats = .ok (.processBlock B.toList) ∧ s.INITIALIZED = true ∧
          t.H = compress s.H B) ∨
      (s.PHASE = .busy ∧ s.RND = 80 ∧ t.H = addRegisters s.H s.regs))

/-- R56: two READ_DIGEST commands in a row get the same response and leave every register as it was; INIT twice with the same
variant leaves the state INIT once leaves. (Two steps a transaction is the model's choice, log entry 3.) -/
def Obligations.ReadAndInitAreIdempotent : Prop :=
  (∀ (s : State) (rest : List Transaction), s.Ready → s.inbox = readTransaction :: readTransaction :: rest →
    ∃ (u : State) (r : Response), run 4 s = .next u ∧ SameRegisters s u ∧ u.Ready ∧ u.inbox = rest ∧
      u.outbox = s.outbox ++ [r, r]) ∧
  (∀ (v : Variant) (s t : State), exec (.init v []) s = .next t → exec (.init v []) t = .next t)

/-! ### The 80 rounds -/

/-- R144, R146 and R147, with the schedule word of R143 and the order of R145: one action of a BUSY engine with RND < 80 (the
model's choice of step, log entry 3) is the round RND: its schedule word comes from the window before the
shift, the window moves only from round 16 on, every right-hand side uses the registers from before the round, RND goes up by
one, and nothing else changes. -/
def Obligations.BusyStepIsOneRound : Prop :=
  ∀ (s : State) (h : s.RND.val < 80), s.rstHeld = false → s.PHASE = .busy →
    ∃ w : Word,
      (∀ h16 : s.RND.val < 16, w = s.W[s.RND.val]) ∧
      (16 ≤ s.RND.val → w = sigma1 s.W[14] + s.W[9] + sigma0 s.W[1] + s.W[0]) ∧
      step s = .next
        { s with
          W := (if s.RND.val < 16 then s.W
            else #v[s.W[1], s.W[2], s.W[3], s.W[4], s.W[5], s.W[6], s.W[7], s.W[8],
                    s.W[9], s.W[10], s.W[11], s.W[12], s.W[13], s.W[14], s.W[15], w])
          regs :=
            { a := T1 s.regs.e s.regs.f s.regs.g s.regs.h (K ⟨s.RND.val, h⟩) w + T2 s.regs.a s.regs.b s.regs.c
              b := s.regs.a, c := s.regs.b, d := s.regs.c
              e := s.regs.d + T1 s.regs.e s.regs.f s.regs.g s.regs.h (K ⟨s.RND.val, h⟩) w
              f := s.regs.e, g := s.regs.f, h := s.regs.g }
          RND := ⟨s.RND.val + 1, by omega⟩ }

/-- R148: with RND = 80 the next action of a BUSY engine adds `a..h` to `H[0..7]`, each to its own word, and ends the block: IDLE,
with the OK response offered. (One sequencer action a step, and the latency counter `wait`, are the model's choice, log
entries 3 and 9.) -/
def Obligations.BusyStepEndsWithFold : Prop :=
  ∀ s : State, s.rstHeld = false → s.PHASE = .busy → s.RND = 80 →
    step s = .next
      { s with
        H := #v[s.H[0] + s.regs.a, s.H[1] + s.regs.b, s.H[2] + s.regs.c, s.H[3] + s.regs.d,
                s.H[4] + s.regs.e, s.H[5] + s.regs.f, s.H[6] + s.regs.g, s.H[7] + s.regs.h]
        PHASE := .idle
        wait := 0
        tx := offered okResponse }

/-- R141, R142, with R36 and R145: a block starts with its words in `W` and the digest state in `a..h`; after n of the 80 rounds
`RND = n`, the engine is BUSY, the window is the one the schedule has before round n, and `H`, `VAR` and `INITIALIZED` are
untouched. (One round a step is the model's choice, log entry 3.) -/
def Obligations.RoundsRunInOrder : Prop :=
  ∀ (B : Block) (s : State) (n : Nat), n ≤ 80 → s.rstHeld = false →
    ∃ t : State, run n (beginBlock B s) = .next t ∧ t.RND.val = n ∧ t.PHASE = .busy ∧ t.W = windowBefore B n ∧
      (n = 0 → t.W = B ∧ t.regs = ⟨s.H[0], s.H[1], s.H[2], s.H[3], s.H[4], s.H[5], s.H[6], s.H[7]⟩) ∧
      t.H = s.H ∧ t.VAR = s.VAR ∧ t.INITIALIZED = s.INITIALIZED ∧ t.tx = s.tx ∧ t.outbox = s.outbox

/-- R55, R140: the 80 rounds and the fold, one sequencer action at a time (the model's choice of step, log entry 3), end in
exactly the state the command reaches in one atomic step. -/
def Obligations.RoundByRoundEqualsAtomicCommand : Prop :=
  ∀ (B : Block) (s : State), s.INITIALIZED = true → s.rstHeld = false → s.wait = 0 →
    run 81 (beginBlock B s) = exec (.processBlock B.toList) s

/-- R153: the schedule words read through the 16-word window are the 80-word message schedule. -/
def Obligations.WindowRealisesTheSchedule : Prop :=
  ∀ B : Block,
    (∀ (t : Nat) (h : t < 16), scheduleWord B t = B[t]) ∧
    (∀ t, 16 ≤ t → t < 80 →
      scheduleWord B t = sigma1 (scheduleWord B (t - 2)) + scheduleWord B (t - 7) +
        sigma0 (scheduleWord B (t - 15)) + scheduleWord B (t - 16))

/-- R152: a circular buffer gives the same word in every round, and after round i holds the window rotated. -/
def Obligations.CircularBufferGivesTheSameSchedule : Prop :=
  ∀ (B : Block) (i : Nat),
    circularWord i (circularBefore B i) = scheduleWord B i ∧
    (16 ≤ i → ∀ (j : Nat) (h : j < 16),
      (circularBefore B (i + 1))[(i - 16 + j + 1) % 16] = (windowBefore B (i + 1))[j])

/-! ### The step and runs -/

/-- R58, R77: when the port is ready and the beats of the oldest waiting transaction decode to a command, the step is that
command's execution in the state with the transaction taken from the queue; when they do not decode, it is the
E_ILLEGAL_COMMAND response (R183). -/
def Obligations.StepRunsTheDecodedCommand : Prop :=
  ∀ (s : State) (t : Transaction) (rest : List Transaction), s.Ready → s.inbox = t :: rest →
    (∀ i, decodeBeats t.beats = .ok i → step s = exec i { s with inbox := rest }) ∧
    (∀ why, decodeBeats t.beats = .error why →
      step s = .next { s with inbox := rest, tx := offered (errorResponse .illegalCommand) })

/-- R80, R84, R198, R211, R220: what a step does when it does not take a command. The response on offer is handed over before any
later transaction is let in; an engine with nothing to do holds its state. (What counts as one step is the model's choice, log
entry 3.) -/
def Obligations.StepBetweenCommands : Prop :=
  (∀ (s : State) (r : Sending), s.rstHeld = false → s.PHASE = .idle → s.tx = some r →
    step s = .next { s with tx := none, wait := 0, outbox := s.outbox ++ [r.rsp] }) ∧
  (∀ s : State, s.rstHeld = false → s.PHASE = .idle → s.tx = none → (s.rx ≠ [] ∨ s.inbox = []) → step s = .next s)

/-- R187: nothing fails: every step from every state answers a next state. -/
def Obligations.EveryStepAnswersANextState : Prop :=
  ∀ s : State, ∃ t : State, step s = .next t

/-- R23, R29, R37: after reset `INITIALIZED` is 0 and the phase IDLE, the port is empty and takes a beat, and the invariant
holds. (The empty lists of the host's two ends are the model's, log entry 4.) -/
def Obligations.ResetIsReadyAndUninitialised : Prop :=
  State.reset.INITIALIZED = false ∧ State.reset.PHASE = .idle ∧ State.reset.Ready ∧ State.reset.Inv ∧
    State.reset.outbox = [] ∧ inReady false State.reset = true

/-- The invariant is kept by every step from every state that has it: a block runs only after INIT, one transaction is in the
port at a time, and only the responses of R82 are ever given. (The invariant also speaks of the model's own fields, log
entries 4, 7 and 9.) -/
def Obligations.StepKeepsInvariant : Prop :=
  ∀ s t : State, s.Inv → step s = .next t → t.Inv

/-- The invariant is kept by every clock edge, whatever the input signals and the latencies (the model's signal level, log
entries 6 to 9). -/
def Obligations.EdgeKeepsInvariant : Prop :=
  ∀ (BL : Nat) (CL : Nat → List Word → Nat) (i : PortIn) (s : State), s.Inv → (edge BL CL i s).Inv

/-- R81, R82: in every response that can occur RLEN is the number of payload words, the bits that are always zero are zero, the
status is one of the four, and OUTBITS and the payload are empty unless the status is OK. -/
def Obligations.HeaderFieldsOfEveryResponse : Prop :=
  ∀ r : Response, r.Listed →
    (rlenField r.RSP).toNat = r.Q.length ∧ r.RSP.extractLsb' 32 32 = 0#32 ∧ r.RSP.extractLsb' 4 4 = 0#4 ∧
    (∃ st : Status, statusField r.RSP = st.code) ∧
    (statusField r.RSP ≠ 0#4 → outbitsField r.RSP = 0#16 ∧ r.Q = []) ∧
    wordsFor (outbitsField r.RSP).toNat = r.Q.length

/-- R80: every transaction gets exactly one response, whether it succeeds or fails: from a ready engine, two steps a
transaction (the model's choice, log entry 3) drain the queue, and the run gains as many responses as there were transactions,
each one of R82. -/
def Obligations.OneResponsePerTransaction : Prop :=
  ∀ s : State, s.Ready →
    ∃ (u : State) (rs : List Response), run (2 * s.inbox.length) s = .next u ∧ u.Ready ∧ u.inbox = [] ∧
      u.outbox = s.outbox ++ rs ∧ rs.length = s.inbox.length ∧ ∀ r ∈ rs, r.Listed

/-- R154: after INIT v and the blocks B1, ..., Bm with no INIT between them, `H` is the blocks compressed in order from `IV(v)`;
and a READ_DIGEST then answers its truncation. (Two steps a transaction is the model's choice, log entry 3.) -/
def Obligations.BlocksChainThroughTheDigest : Prop :=
  ∀ (v : Variant) (Bs : List Block) (s : State), s.Ready →
    s.inbox = initTransaction v :: (Bs.map blockTransaction ++ [readTransaction]) →
    ∃ u : State, run (2 * (Bs.length + 2)) s = .next u ∧ u.Ready ∧ u.inbox = [] ∧ u.VAR = v ∧
      u.INITIALIZED = true ∧ u.H = Bs.foldl compress (IV v) ∧
      u.outbox = s.outbox ++ List.replicate (Bs.length + 1) okResponse ++
        [digestResponse v (Bs.foldl compress (IV v))]

/-- R24, R25, R35 to R37: what the host cannot see never shows. From two states it cannot tell apart, whatever they hold in `W`,
`a..h` and `RND` while IDLE and in `H` and `VAR` before INIT, every run of any length gives the same responses. -/
def Obligations.HiddenStateNeverShows : Prop :=
  ∀ (n : Nat) (s s' t : State), SameToHost s s' → run n s = .next t →
    ∃ t' : State, run n s' = .next t' ∧ SameToHost t t' ∧ t.outbox = t'.outbox

/-! ### The signal level -/

/-- R84, R220: a beat is taken only while `in_ready` is high, which it is exactly when the engine is IDLE, out of reset, and has no
response left to give; while it is low, an edge does the same whatever is on the input stream. (Low at the edge after `rst` falls
too: the model's choice, log entry 7.) -/
def Obligations.BackPressureHoldsBeatsBack : Prop :=
  (∀ (rst : Bool) (s : State), inReady rst s = true ↔
    rst = false ∧ s.rstHeld = false ∧ s.PHASE = .idle ∧ s.tx = none) ∧
  (∀ (BL : Nat) (CL : Nat → List Word → Nat) (i j : PortIn) (s : State), inReady i.rst s = false →
    j.rst = i.rst → j.out_ready = i.out_ready → edge BL CL j s = edge BL CL i s)

/-- R210, R211: whatever the engine was doing, a reset (any number of edges with `rst` high, then the edge after it falls) ends
with `INITIALIZED = 0`, IDLE, nothing received and nothing to send: a block in progress gets no response, and the engine takes
beats again. (That no beat is given while `rst` is high or at the edge after it is the model's choice, log entry 8; that the
responses the host already has stay in `outbox`, and how the edge after `rst` counts, are its choice too, log entries 13 and
7.) -/
def Obligations.ResetAbandonsEverything : Prop :=
  ∀ (BL : Nat) (CL : Nat → List Word → Nat) (highs : List PortIn) (low : PortIn) (s : State),
    highs ≠ [] → (∀ i ∈ highs, i.rst = true) → low.rst = false →
    (edges BL CL (highs ++ [low]) s).Ready ∧
    (edges BL CL (highs ++ [low]) s).INITIALIZED = false ∧
    (edges BL CL (highs ++ [low]) s).outbox = s.outbox ∧
    beatsTaken BL CL (highs ++ [low]) s = [] ∧
    inReady false (edges BL CL (highs ++ [low]) s) = true

/-- R8, D17: an accepted block keeps the engine BUSY for exactly `BLOCK_LATENCY` cycles, whatever comes on the port meanwhile
(reset apart), and then its response is offered at once. (How the rounds spread over those cycles is the model's choice, log
entry 9.) -/
def Obligations.BlockIsBusyForBlockLatency : Prop :=
  ∀ (BL : Nat) (CL : Nat → List Word → Nat) (B : Block) (s : State) (ins : List PortIn),
    1 ≤ BL → s.rstHeld = false → s.INITIALIZED = true → (∀ i ∈ ins, i.rst = false) →
    (ins.length < BL →
      (edges BL CL ins (beginCommand BL 0 (.processBlock B.toList) s)).PHASE = .busy) ∧
    (ins.length = BL →
      (edges BL CL ins (beginCommand BL 0 (.processBlock B.toList) s)).PHASE = .idle ∧
      (edges BL CL ins (beginCommand BL 0 (.processBlock B.toList) s)).H = compress s.H B ∧
      outBeat false (edges BL CL ins (beginCommand BL 0 (.processBlock B.toList) s)) =
        some { data := 0#64, last := true })

/-- R70, R78, R84: offering the beats of any transaction one an edge, and then waiting for its latency, brings the engine to
exactly the state the transaction-level step gives, legal or not and whatever its length, for every `BLOCK_LATENCY` and every
other latency. (The other latencies, and the counter for them, are the model's choice, log entry 9.) -/
def Obligations.SignalsRefineTheTransactionStep : Prop :=
  ∀ (BL : Nat) (CL : Nat → List Word → Nat) (s : State) (t : Transaction) (rest : List Transaction),
    1 ≤ BL → s.Ready → s.inbox = t :: rest →
    step s = .next
      (edges BL CL
        (offerBeats t.beats ++ quietEdges (if startsBlock t s = true then BL else CL s.outbox.length t.beats) false)
        { s with inbox := rest })

/-- R80, R84: a response on offer leaves beat by beat: with `out_ready` high it takes one edge a beat, the beats are RSP and then the
payload with the last one marked, and the engine is left as the transaction-level step leaves it. (That step, and one edge
a beat with no gap between two beats, are the model's choice, log entries 3 and 18.) -/
def Obligations.ResponseLeavesBeatByBeat : Prop :=
  ∀ (BL : Nat) (CL : Nat → List Word → Nat) (s : State) (r : Response),
    s.rstHeld = false → s.PHASE = .idle → s.wait = 0 → s.tx = offered r →
    step s = .next (edges BL CL (quietEdges r.beats.length true) s) ∧
    (beatsTaken BL CL (quietEdges r.beats.length true) s).map Beat.data = r.beats ∧
    (beatsTaken BL CL (quietEdges r.beats.length true) s).map Beat.last =
      List.replicate r.Q.length false ++ [true]

/-- R35 at the signals: two states the host cannot tell apart give the same output signals at every edge, for every sequence of
inputs. -/
def Obligations.HiddenStateNeverShowsAtTheSignals : Prop :=
  ∀ (BL : Nat) (CL : Nat → List Word → Nat) (ins : List PortIn) (s s' : State), SameToHost s s' →
    outputsSeen BL CL ins s = outputsSeen BL CL ins s' ∧ SameToHost (edges BL CL ins s) (edges BL CL ins s')

/-! ### Several instances, and the assembler -/

/-- R59: a step of one instance leaves every other as it was, and steps of two instances give the same platform in either
order. -/
def Obligations.InstancesAreIndependent : Prop :=
  ∀ (n : Nat) (p : Platform n) (j k : Fin n), j ≠ k →
    (∀ q, p.stepAt j = .next q → q[k] = p[k] ∧ step p[j] = .next q[j]) ∧
    (∀ q r, p.stepAt j = .next q → q.stepAt k = .next r →
      ∃ q', p.stepAt k = .next q' ∧ q'.stepAt j = .next r)

/-- R87: the transactions the lines of the syntax stand for, with the command words written out. -/
def Obligations.AssemblerWords : Prop :=
  assemble (.init .sha512) = [{ CMD := 0x01#64, P := [] }] ∧
  assemble (.init .sha384) = [{ CMD := 0x11#64, P := [] }] ∧
  assemble (.init .sha512_224) = [{ CMD := 0x21#64, P := [] }] ∧
  assemble (.init .sha512_256) = [{ CMD := 0x31#64, P := [] }] ∧
  (∀ P, assemble (.block P) = [{ CMD := 0x02#64, P := P }]) ∧
  assemble .read = [{ CMD := 0x03#64, P := [] }] ∧
  (∀ c P, assemble (.raw c P) = [{ CMD := c, P := P }])

/-- R88: HASH1 is INIT, BLOCK and READ in that order, and from any ready engine it is answered OK, OK and the truncated digest of
its one block. (Two steps a transaction is the model's choice, log entry 3.) -/
def Obligations.Hash1GivesTheDigest : Prop :=
  ∀ (v : Variant) (B : Block) (s : State), s.Ready → s.inbox = assemble (.hash1 v B) →
    assemble (.hash1 v B) = assemble (.init v) ++ assemble (.block B.toList) ++ assemble .read ∧
    ∃ u : State, run 6 s = .next u ∧ u.Ready ∧ u.inbox = [] ∧
      u.outbox = s.outbox ++ [okResponse, okResponse, digestResponse v (compress (IV v) B)]
end

