-- ==== Sys2Proof/Laws/State.lean ====
section
/-! SUPPORT. What each shared operation does to each field of State: one lemma per field, true by definition. -/

namespace Sys2Proof.Machine

@[simp] theorem respond_H (st : Status) (n : Nat) (Q : List Word) (s : State) : (respond st n Q s).H = s.H := rfl
@[simp] theorem respond_VAR (st : Status) (n : Nat) (Q : List Word) (s : State) : (respond st n Q s).VAR = s.VAR := rfl
@[simp] theorem respond_INITIALIZED (st : Status) (n : Nat) (Q : List Word) (s : State) : (respond st n Q s).INITIALIZED = s.INITIALIZED := rfl
@[simp] theorem respond_W (st : Status) (n : Nat) (Q : List Word) (s : State) : (respond st n Q s).W = s.W := rfl
@[simp] theorem respond_regs (st : Status) (n : Nat) (Q : List Word) (s : State) : (respond st n Q s).regs = s.regs := rfl
@[simp] theorem respond_PHASE (st : Status) (n : Nat) (Q : List Word) (s : State) : (respond st n Q s).PHASE = s.PHASE := rfl
@[simp] theorem respond_RND (st : Status) (n : Nat) (Q : List Word) (s : State) : (respond st n Q s).RND = s.RND := rfl
@[simp] theorem respond_rx (st : Status) (n : Nat) (Q : List Word) (s : State) : (respond st n Q s).rx = s.rx := rfl
@[simp] theorem respond_tx (st : Status) (n : Nat) (Q : List Word) (s : State) : (respond st n Q s).tx = some { rsp := { RSP := responseHeader st n Q.length, Q := Q }, sent := 0 } := rfl
@[simp] theorem respond_wait (st : Status) (n : Nat) (Q : List Word) (s : State) : (respond st n Q s).wait = s.wait := rfl
@[simp] theorem respond_rstHeld (st : Status) (n : Nat) (Q : List Word) (s : State) : (respond st n Q s).rstHeld = s.rstHeld := rfl
@[simp] theorem respond_inbox (st : Status) (n : Nat) (Q : List Word) (s : State) : (respond st n Q s).inbox = s.inbox := rfl
@[simp] theorem respond_outbox (st : Status) (n : Nat) (Q : List Word) (s : State) : (respond st n Q s).outbox = s.outbox := rfl

@[simp] theorem raise_H (st : Status) (s : State) : (raise st s).H = s.H := rfl
@[simp] theorem raise_VAR (st : Status) (s : State) : (raise st s).VAR = s.VAR := rfl
@[simp] theorem raise_INITIALIZED (st : Status) (s : State) : (raise st s).INITIALIZED = s.INITIALIZED := rfl
@[simp] theorem raise_W (st : Status) (s : State) : (raise st s).W = s.W := rfl
@[simp] theorem raise_regs (st : Status) (s : State) : (raise st s).regs = s.regs := rfl
@[simp] theorem raise_PHASE (st : Status) (s : State) : (raise st s).PHASE = s.PHASE := rfl
@[simp] theorem raise_RND (st : Status) (s : State) : (raise st s).RND = s.RND := rfl
@[simp] theorem raise_rx (st : Status) (s : State) : (raise st s).rx = s.rx := rfl
@[simp] theorem raise_tx (st : Status) (s : State) : (raise st s).tx = some { rsp := { RSP := responseHeader st 0 0, Q := [] }, sent := 0 } := rfl
@[simp] theorem raise_wait (st : Status) (s : State) : (raise st s).wait = s.wait := rfl
@[simp] theorem raise_rstHeld (st : Status) (s : State) : (raise st s).rstHeld = s.rstHeld := rfl
@[simp] theorem raise_inbox (st : Status) (s : State) : (raise st s).inbox = s.inbox := rfl
@[simp] theorem raise_outbox (st : Status) (s : State) : (raise st s).outbox = s.outbox := rfl

@[simp] theorem loadVariant_H (v : Variant) (s : State) : (loadVariant v s).H = IV v := rfl
@[simp] theorem loadVariant_VAR (v : Variant) (s : State) : (loadVariant v s).VAR = v := rfl
@[simp] theorem loadVariant_INITIALIZED (v : Variant) (s : State) : (loadVariant v s).INITIALIZED = true := rfl
@[simp] theorem loadVariant_W (v : Variant) (s : State) : (loadVariant v s).W = s.W := rfl
@[simp] theorem loadVariant_regs (v : Variant) (s : State) : (loadVariant v s).regs = s.regs := rfl
@[simp] theorem loadVariant_PHASE (v : Variant) (s : State) : (loadVariant v s).PHASE = s.PHASE := rfl
@[simp] theorem loadVariant_RND (v : Variant) (s : State) : (loadVariant v s).RND = s.RND := rfl
@[simp] theorem loadVariant_rx (v : Variant) (s : State) : (loadVariant v s).rx = s.rx := rfl
@[simp] theorem loadVariant_tx (v : Variant) (s : State) : (loadVariant v s).tx = s.tx := rfl
@[simp] theorem loadVariant_wait (v : Variant) (s : State) : (loadVariant v s).wait = s.wait := rfl
@[simp] theorem loadVariant_rstHeld (v : Variant) (s : State) : (loadVariant v s).rstHeld = s.rstHeld := rfl
@[simp] theorem loadVariant_inbox (v : Variant) (s : State) : (loadVariant v s).inbox = s.inbox := rfl
@[simp] theorem loadVariant_outbox (v : Variant) (s : State) : (loadVariant v s).outbox = s.outbox := rfl

@[simp] theorem handOver_H (r : Response) (s : State) : (handOver r s).H = s.H := rfl
@[simp] theorem handOver_VAR (r : Response) (s : State) : (handOver r s).VAR = s.VAR := rfl
@[simp] theorem handOver_INITIALIZED (r : Response) (s : State) : (handOver r s).INITIALIZED = s.INITIALIZED := rfl
@[simp] theorem handOver_W (r : Response) (s : State) : (handOver r s).W = s.W := rfl
@[simp] theorem handOver_regs (r : Response) (s : State) : (handOver r s).regs = s.regs := rfl
@[simp] theorem handOver_PHASE (r : Response) (s : State) : (handOver r s).PHASE = s.PHASE := rfl
@[simp] theorem handOver_RND (r : Response) (s : State) : (handOver r s).RND = s.RND := rfl
@[simp] theorem handOver_rx (r : Response) (s : State) : (handOver r s).rx = s.rx := rfl
@[simp] theorem handOver_tx (r : Response) (s : State) : (handOver r s).tx = none := rfl
@[simp] theorem handOver_wait (r : Response) (s : State) : (handOver r s).wait = 0 := rfl
@[simp] theorem handOver_rstHeld (r : Response) (s : State) : (handOver r s).rstHeld = s.rstHeld := rfl
@[simp] theorem handOver_inbox (r : Response) (s : State) : (handOver r s).inbox = s.inbox := rfl
@[simp] theorem handOver_outbox (r : Response) (s : State) : (handOver r s).outbox = s.outbox ++ [r] := rfl

@[simp] theorem letIn_H (rest : List Transaction) (s : State) : (letIn rest s).H = s.H := rfl
@[simp] theorem letIn_VAR (rest : List Transaction) (s : State) : (letIn rest s).VAR = s.VAR := rfl
@[simp] theorem letIn_INITIALIZED (rest : List Transaction) (s : State) : (letIn rest s).INITIALIZED = s.INITIALIZED := rfl
@[simp] theorem letIn_W (rest : List Transaction) (s : State) : (letIn rest s).W = s.W := rfl
@[simp] theorem letIn_regs (rest : List Transaction) (s : State) : (letIn rest s).regs = s.regs := rfl
@[simp] theorem letIn_PHASE (rest : List Transaction) (s : State) : (letIn rest s).PHASE = s.PHASE := rfl
@[simp] theorem letIn_RND (rest : List Transaction) (s : State) : (letIn rest s).RND = s.RND := rfl
@[simp] theorem letIn_rx (rest : List Transaction) (s : State) : (letIn rest s).rx = s.rx := rfl
@[simp] theorem letIn_tx (rest : List Transaction) (s : State) : (letIn rest s).tx = s.tx := rfl
@[simp] theorem letIn_wait (rest : List Transaction) (s : State) : (letIn rest s).wait = s.wait := rfl
@[simp] theorem letIn_rstHeld (rest : List Transaction) (s : State) : (letIn rest s).rstHeld = s.rstHeld := rfl
@[simp] theorem letIn_inbox (rest : List Transaction) (s : State) : (letIn rest s).inbox = rest := rfl
@[simp] theorem letIn_outbox (rest : List Transaction) (s : State) : (letIn rest s).outbox = s.outbox := rfl

@[simp] theorem loadWindow_H (B : Block) (s : State) : (loadWindow B s).H = s.H := rfl
@[simp] theorem loadWindow_VAR (B : Block) (s : State) : (loadWindow B s).VAR = s.VAR := rfl
@[simp] theorem loadWindow_INITIALIZED (B : Block) (s : State) : (loadWindow B s).INITIALIZED = s.INITIALIZED := rfl
@[simp] theorem loadWindow_W (B : Block) (s : State) : (loadWindow B s).W = B := rfl
@[simp] theorem loadWindow_regs (B : Block) (s : State) : (loadWindow B s).regs = s.regs := rfl
@[simp] theorem loadWindow_PHASE (B : Block) (s : State) : (loadWindow B s).PHASE = s.PHASE := rfl
@[simp] theorem loadWindow_RND (B : Block) (s : State) : (loadWindow B s).RND = s.RND := rfl
@[simp] theorem loadWindow_rx (B : Block) (s : State) : (loadWindow B s).rx = s.rx := rfl
@[simp] theorem loadWindow_tx (B : Block) (s : State) : (loadWindow B s).tx = s.tx := rfl
@[simp] theorem loadWindow_wait (B : Block) (s : State) : (loadWindow B s).wait = s.wait := rfl
@[simp] theorem loadWindow_rstHeld (B : Block) (s : State) : (loadWindow B s).rstHeld = s.rstHeld := rfl
@[simp] theorem loadWindow_inbox (B : Block) (s : State) : (loadWindow B s).inbox = s.inbox := rfl
@[simp] theorem loadWindow_outbox (B : Block) (s : State) : (loadWindow B s).outbox = s.outbox := rfl

@[simp] theorem loadWorking_H (s : State) : (loadWorking s).H = s.H := rfl
@[simp] theorem loadWorking_VAR (s : State) : (loadWorking s).VAR = s.VAR := rfl
@[simp] theorem loadWorking_INITIALIZED (s : State) : (loadWorking s).INITIALIZED = s.INITIALIZED := rfl
@[simp] theorem loadWorking_W (s : State) : (loadWorking s).W = s.W := rfl
@[simp] theorem loadWorking_regs (s : State) : (loadWorking s).regs = workingOf s.H := rfl
@[simp] theorem loadWorking_PHASE (s : State) : (loadWorking s).PHASE = s.PHASE := rfl
@[simp] theorem loadWorking_RND (s : State) : (loadWorking s).RND = s.RND := rfl
@[simp] theorem loadWorking_rx (s : State) : (loadWorking s).rx = s.rx := rfl
@[simp] theorem loadWorking_tx (s : State) : (loadWorking s).tx = s.tx := rfl
@[simp] theorem loadWorking_wait (s : State) : (loadWorking s).wait = s.wait := rfl
@[simp] theorem loadWorking_rstHeld (s : State) : (loadWorking s).rstHeld = s.rstHeld := rfl
@[simp] theorem loadWorking_inbox (s : State) : (loadWorking s).inbox = s.inbox := rfl
@[simp] theorem loadWorking_outbox (s : State) : (loadWorking s).outbox = s.outbox := rfl

@[simp] theorem doRound_H (i : Fin 80) (s : State) : (doRound i s).H = s.H := rfl
@[simp] theorem doRound_VAR (i : Fin 80) (s : State) : (doRound i s).VAR = s.VAR := rfl
@[simp] theorem doRound_INITIALIZED (i : Fin 80) (s : State) : (doRound i s).INITIALIZED = s.INITIALIZED := rfl
@[simp] theorem doRound_W (i : Fin 80) (s : State) : (doRound i s).W = windowStep i s.W := rfl
@[simp] theorem doRound_regs (i : Fin 80) (s : State) : (doRound i s).regs = mixRegisters s.regs (K i) (SCHED i s.W) := rfl
@[simp] theorem doRound_PHASE (i : Fin 80) (s : State) : (doRound i s).PHASE = s.PHASE := rfl
@[simp] theorem doRound_RND (i : Fin 80) (s : State) : (doRound i s).RND = i.succ := rfl
@[simp] theorem doRound_rx (i : Fin 80) (s : State) : (doRound i s).rx = s.rx := rfl
@[simp] theorem doRound_tx (i : Fin 80) (s : State) : (doRound i s).tx = s.tx := rfl
@[simp] theorem doRound_wait (i : Fin 80) (s : State) : (doRound i s).wait = s.wait := rfl
@[simp] theorem doRound_rstHeld (i : Fin 80) (s : State) : (doRound i s).rstHeld = s.rstHeld := rfl
@[simp] theorem doRound_inbox (i : Fin 80) (s : State) : (doRound i s).inbox = s.inbox := rfl
@[simp] theorem doRound_outbox (i : Fin 80) (s : State) : (doRound i s).outbox = s.outbox := rfl

@[simp] theorem fold_H (s : State) : (fold s).H = foldDigest s.H s.regs := rfl
@[simp] theorem fold_VAR (s : State) : (fold s).VAR = s.VAR := rfl
@[simp] theorem fold_INITIALIZED (s : State) : (fold s).INITIALIZED = s.INITIALIZED := rfl
@[simp] theorem fold_W (s : State) : (fold s).W = s.W := rfl
@[simp] theorem fold_regs (s : State) : (fold s).regs = s.regs := rfl
@[simp] theorem fold_PHASE (s : State) : (fold s).PHASE = s.PHASE := rfl
@[simp] theorem fold_RND (s : State) : (fold s).RND = s.RND := rfl
@[simp] theorem fold_rx (s : State) : (fold s).rx = s.rx := rfl
@[simp] theorem fold_tx (s : State) : (fold s).tx = s.tx := rfl
@[simp] theorem fold_wait (s : State) : (fold s).wait = s.wait := rfl
@[simp] theorem fold_rstHeld (s : State) : (fold s).rstHeld = s.rstHeld := rfl
@[simp] theorem fold_inbox (s : State) : (fold s).inbox = s.inbox := rfl
@[simp] theorem fold_outbox (s : State) : (fold s).outbox = s.outbox := rfl

@[simp] theorem beginBlock_H (B : Block) (s : State) : (beginBlock B s).H = s.H := rfl
@[simp] theorem beginBlock_VAR (B : Block) (s : State) : (beginBlock B s).VAR = s.VAR := rfl
@[simp] theorem beginBlock_INITIALIZED (B : Block) (s : State) : (beginBlock B s).INITIALIZED = s.INITIALIZED := rfl
@[simp] theorem beginBlock_W (B : Block) (s : State) : (beginBlock B s).W = B := rfl
@[simp] theorem beginBlock_regs (B : Block) (s : State) : (beginBlock B s).regs = workingOf s.H := rfl
@[simp] theorem beginBlock_PHASE (B : Block) (s : State) : (beginBlock B s).PHASE = .busy := rfl
@[simp] theorem beginBlock_RND (B : Block) (s : State) : (beginBlock B s).RND = 0 := rfl
@[simp] theorem beginBlock_rx (B : Block) (s : State) : (beginBlock B s).rx = s.rx := rfl
@[simp] theorem beginBlock_tx (B : Block) (s : State) : (beginBlock B s).tx = s.tx := rfl
@[simp] theorem beginBlock_wait (B : Block) (s : State) : (beginBlock B s).wait = s.wait := rfl
@[simp] theorem beginBlock_rstHeld (B : Block) (s : State) : (beginBlock B s).rstHeld = s.rstHeld := rfl
@[simp] theorem beginBlock_inbox (B : Block) (s : State) : (beginBlock B s).inbox = s.inbox := rfl
@[simp] theorem beginBlock_outbox (B : Block) (s : State) : (beginBlock B s).outbox = s.outbox := rfl

@[simp] theorem finishBlock_H (s : State) : (finishBlock s).H = foldDigest s.H s.regs := rfl
@[simp] theorem finishBlock_VAR (s : State) : (finishBlock s).VAR = s.VAR := rfl
@[simp] theorem finishBlock_INITIALIZED (s : State) : (finishBlock s).INITIALIZED = s.INITIALIZED := rfl
@[simp] theorem finishBlock_W (s : State) : (finishBlock s).W = s.W := rfl
@[simp] theorem finishBlock_regs (s : State) : (finishBlock s).regs = s.regs := rfl
@[simp] theorem finishBlock_PHASE (s : State) : (finishBlock s).PHASE = .idle := rfl
@[simp] theorem finishBlock_RND (s : State) : (finishBlock s).RND = s.RND := rfl
@[simp] theorem finishBlock_rx (s : State) : (finishBlock s).rx = s.rx := rfl
@[simp] theorem finishBlock_tx (s : State) : (finishBlock s).tx = some { rsp := { RSP := responseHeader .ok 0 0, Q := [] }, sent := 0 } := rfl
@[simp] theorem finishBlock_wait (s : State) : (finishBlock s).wait = s.wait := rfl
@[simp] theorem finishBlock_rstHeld (s : State) : (finishBlock s).rstHeld = s.rstHeld := rfl
@[simp] theorem finishBlock_inbox (s : State) : (finishBlock s).inbox = s.inbox := rfl
@[simp] theorem finishBlock_outbox (s : State) : (finishBlock s).outbox = s.outbox := rfl

@[simp] theorem resetEvent_H (high : Bool) (s : State) : (resetEvent high s).H = Vector.replicate 8 0#64 := rfl
@[simp] theorem resetEvent_VAR (high : Bool) (s : State) : (resetEvent high s).VAR = .sha512 := rfl
@[simp] theorem resetEvent_INITIALIZED (high : Bool) (s : State) : (resetEvent high s).INITIALIZED = false := rfl
@[simp] theorem resetEvent_W (high : Bool) (s : State) : (resetEvent high s).W = Vector.replicate 16 0#64 := rfl
@[simp] theorem resetEvent_regs (high : Bool) (s : State) : (resetEvent high s).regs = Working.reset := rfl
@[simp] theorem resetEvent_PHASE (high : Bool) (s : State) : (resetEvent high s).PHASE = .idle := rfl
@[simp] theorem resetEvent_RND (high : Bool) (s : State) : (resetEvent high s).RND = 0 := rfl
@[simp] theorem resetEvent_rx (high : Bool) (s : State) : (resetEvent high s).rx = [] := rfl
@[simp] theorem resetEvent_tx (high : Bool) (s : State) : (resetEvent high s).tx = none := rfl
@[simp] theorem resetEvent_wait (high : Bool) (s : State) : (resetEvent high s).wait = 0 := rfl
@[simp] theorem resetEvent_rstHeld (high : Bool) (s : State) : (resetEvent high s).rstHeld = high := rfl
@[simp] theorem resetEvent_inbox (high : Bool) (s : State) : (resetEvent high s).inbox = s.inbox := rfl
@[simp] theorem resetEvent_outbox (high : Bool) (s : State) : (resetEvent high s).outbox = s.outbox := rfl

end Sys2Proof.Machine
end

