-- ==== Sys2Proof/Laws/Commands.lean ====
section
/-! SUPPORT. One lemma per command that says all it can do, in the terms of Safety.lean: which response, and what is written. -/

namespace Sys2Proof.Machine

/-- The response header of an error or an empty OK is its STATUS code alone (R82). -/
theorem responseHeader_empty (st : Status) : responseHeader st 0 0 = (errorResponse st).RSP := by
  cases st <;> decide

/-- The header of a digest response (R82). -/
theorem responseHeader_digest (v : Variant) :
    responseHeader .ok (outLen v) (wordsFor (outLen v)) = digestHeader v := by
  cases v <;> decide

/-- A read-out has `ceil(t / 64)` words (R150). -/
theorem trunc_length (H : Digest) (v : Variant) : (trunc H (outLen v)).length = wordsFor (outLen v) := by
  cases v <;> simp [trunc, outLen, wordsFor]

/-- The responses the commands give are those of R82. -/
theorem errorResponse_listed (st : Status) : (errorResponse st).Listed := by cases st <;> decide

theorem digestHeader_listed (v : Variant) : (digestHeader v, wordsFor (outLen v)) ∈ responseTable := by
  cases v <;> decide

theorem digestResponse_listed (v : Variant) (H : Digest) : (digestResponse v H).Listed := by
  have h := digestHeader_listed v
  rwa [← trunc_length H v] at h

/-- `raise` offers the error response and writes nothing else (R185). -/
theorem raise_eq (st : Status) (s : State) : raise st s = { s with tx := offered (errorResponse st) } := by
  cases st <;> simp [raise, respond, offered, errorResponse, okResponse] <;> decide

/-- Answering OK with no payload writes nothing but the response (R82). -/
theorem respond_ok_eq (s : State) : respond .ok 0 [] s = { s with tx := offered okResponse } := raise_eq .ok s

/-- INIT with an empty payload (R130). -/
theorem initVariant_nil (v : Variant) (s : State) :
    initVariant v [] s = { s with VAR := v, H := IV v, INITIALIZED := true, tx := offered okResponse } := by
  simp [initVariant, respond_ok_eq, loadVariant]

/-- INIT with a payload (R181). -/
theorem initVariant_payload {P : List Word} (v : Variant) (s : State) (h : P ≠ []) :
    initVariant v P s = { s with tx := offered (errorResponse .badLength) } := by
  simp [initVariant, h, raise_eq]

/-- READ_DIGEST on an initialised engine (R150). -/
theorem readDigest_ok (s : State) (h : s.INITIALIZED = true) :
    readDigest [] s = { s with tx := offered (digestResponse s.VAR s.H) } := by
  simp [readDigest, h, respond, offered, digestResponse, trunc_length, responseHeader_digest]

/-- READ_DIGEST before INIT (R182). -/
theorem readDigest_uninit (P : List Word) (s : State) (h : s.INITIALIZED = false) :
    readDigest P s = { s with tx := offered (errorResponse .notInitialized) } := by
  simp [readDigest, h, raise_eq]

/-- READ_DIGEST with a payload (R181). -/
theorem readDigest_payload {P : List Word} (s : State) (h : s.INITIALIZED = true) (hP : P ≠ []) :
    readDigest P s = { s with tx := offered (errorResponse .badLength) } := by
  simp [readDigest, h, hP, raise_eq]

/-- The words of a block are accepted as that block (R141). -/
@[simp] theorem blockOf_toList (B : Block) : blockOf B.toList = some B := by
  simp only [blockOf, Vector.length_toList, dite_true]
  rfl

/-- A payload is a block exactly when it has 16 words (R75). -/
theorem blockOf_eq_some {P : List Word} {B : Block} : blockOf P = some B ↔ P = B.toList := by
  constructor
  · intro h
    unfold blockOf at h
    split at h
    · cases h; rfl
    · cases h
  · rintro rfl; exact blockOf_toList B

theorem blockOf_eq_none {P : List Word} : blockOf P = none ↔ P.length ≠ 16 := by
  unfold blockOf; split <;> simp_all

/-- What `checkBlock` answers, case by case (R186). -/
theorem checkBlock_uninit (P : List Word) (s : State) (h : s.INITIALIZED = false) :
    checkBlock P s = .error .notInitialized := by
  simp [checkBlock, h]

theorem checkBlock_length {P : List Word} (s : State) (h : s.INITIALIZED = true) (hP : P.length ≠ 16) :
    checkBlock P s = .error .badLength := by
  simp [checkBlock, h, blockOf_eq_none.2 hP]

theorem checkBlock_ok (B : Block) (s : State) (h : s.INITIALIZED = true) : checkBlock B.toList s = .ok B := by
  simp [checkBlock, h]

/-- The converse: an accepted payload is a block, on an initialised engine. -/
theorem checkBlock_eq_ok {P : List Word} {s : State} {B : Block} (h : checkBlock P s = .ok B) :
    s.INITIALIZED = true ∧ P = B.toList := by
  cases hI : s.INITIALIZED with
  | false => simp [checkBlock, hI] at h
  | true =>
    by_cases hP : P.length = 16
    · have hB := checkBlock_ok ⟨⟨P⟩, hP⟩ s hI
      rw [show (⟨⟨P⟩, hP⟩ : Block).toList = P from rfl, h] at hB
      injection hB with hB
      exact ⟨rfl, by rw [hB]; rfl⟩
    · rw [checkBlock_length s hI hP] at h; cases h

/-- PROCESS_BLOCK before INIT (R182). -/
theorem processBlock_uninit (P : List Word) (s : State) (h : s.INITIALIZED = false) :
    processBlock P s = { s with tx := offered (errorResponse .notInitialized) } := by
  simp [processBlock, checkBlock_uninit P s h, raise_eq]

/-- PROCESS_BLOCK with another number of words than 16 (R181). -/
theorem processBlock_length {P : List Word} (s : State) (h : s.INITIALIZED = true) (hP : P.length ≠ 16) :
    processBlock P s = { s with tx := offered (errorResponse .badLength) } := by
  simp [processBlock, checkBlock_length s h hP, raise_eq]

/-- PROCESS_BLOCK, accepted (R140). -/
theorem processBlock_ok (B : Block) (s : State) (h : s.INITIALIZED = true) :
    processBlock B.toList s = finishBlock (roundLoop 80 (beginBlock B s)) := by
  simp [processBlock, checkBlock_ok B s h]

end Sys2Proof.Machine
end

