-- ==== Sys2Proof/Laws/Encoding.lean ====
section
/-! SUPPORT. The three fields of a command word (R71): a word is its fields put together, and each field of a word put together
is the part it was made from. -/

namespace Sys2Proof

/-- A bit of a word put together is a bit of one of the three parts. -/
theorem getLsbD_fields (r : BitVec 58) (v : BitVec 2) (o : BitVec 4) (i : Nat) :
    BitVec.getLsbD (w := 64) (r ++ v ++ o) i =
      if i < 4 then o.getLsbD i else if i - 4 < 2 then v.getLsbD (i - 4) else r.getLsbD (i - 4 - 2) := by
  show BitVec.getLsbD (w := 58 + 2 + 4) (r ++ v ++ o) i = _
  rw [BitVec.getLsbD_append, BitVec.getLsbD_append]

@[simp] theorem opField_append (r : BitVec 58) (v : BitVec 2) (o : BitVec 4) : opField (r ++ v ++ o) = o := by
  apply BitVec.eq_of_getLsbD_eq
  intro i hi
  rw [opField, BitVec.getLsbD_extractLsb', getLsbD_fields, Nat.zero_add]
  simp [hi]

@[simp] theorem varField_append (r : BitVec 58) (v : BitVec 2) (o : BitVec 4) : varField (r ++ v ++ o) = v := by
  apply BitVec.eq_of_getLsbD_eq
  intro i hi
  rw [varField, BitVec.getLsbD_extractLsb', getLsbD_fields, if_neg (by omega), if_pos (by omega), Nat.add_sub_cancel_left]
  simp [hi]

@[simp] theorem rsvField_append (r : BitVec 58) (v : BitVec 2) (o : BitVec 4) : rsvField (r ++ v ++ o) = r := by
  apply BitVec.eq_of_getLsbD_eq
  intro i hi
  rw [rsvField, BitVec.getLsbD_extractLsb', getLsbD_fields, if_neg (by omega), if_neg (by omega),
    show 6 + i - 4 - 2 = i by omega]
  simp [hi]

@[simp] theorem opField_commandWord (v : BitVec 2) (o : BitVec 4) : opField (commandWord v o) = o := opField_append _ _ _

@[simp] theorem varField_commandWord (v : BitVec 2) (o : BitVec 4) : varField (commandWord v o) = v := varField_append _ _ _

@[simp] theorem rsvField_commandWord (v : BitVec 2) (o : BitVec 4) : rsvField (commandWord v o) = 0#58 :=
  rsvField_append _ _ _

/-- Every word is its three fields, RSV most significant (R71). -/
theorem word_fields (w : Word) : w = rsvField w ++ varField w ++ opField w := by
  apply BitVec.eq_of_getLsbD_eq
  intro i hi
  simp only [BitVec.getLsbD_append, rsvField, varField, opField, BitVec.getLsbD_extractLsb']
  by_cases h1 : i < 4
  · simp [h1]
  · by_cases h2 : i - 4 < 2
    · have : 4 + (i - 4) = i := by omega
      simp [h1, h2, this]
    · have h3 : i - 4 - 2 < 58 := by omega
      have : 6 + (i - 4 - 2) = i := by omega
      simp [h1, h2, h3, this]

/-- Two words are equal when their fields are. -/
theorem word_eq_of_fields {w w' : Word} (hr : rsvField w = rsvField w') (hv : varField w = varField w')
    (ho : opField w = opField w') : w = w' := by
  rw [word_fields w, word_fields w', hr, hv, ho]

/-- The mask of INIT's row leaves out the VAR field alone (R86). -/
theorem initRow_matches (w : Word) :
    (w &&& 0xFFFFFFFFFFFFFFCF#64 = 0x1#64) ↔ rsvField w = 0#58 ∧ opField w = 0x1#4 := by
  have hm : (0xFFFFFFFFFFFFFFCF#64) = BitVec.allOnes 58 ++ 0#2 ++ BitVec.allOnes 4 := by decide
  have h1 : (0x1#64) = 0#58 ++ 0#2 ++ 0x1#4 := by decide
  have hw : w &&& 0xFFFFFFFFFFFFFFCF#64 = rsvField w ++ 0#2 ++ opField w := by
    conv => lhs; rw [word_fields w, hm]
    show (_ : BitVec (58 + 2 + 4)) &&& _ = _
    rw [BitVec.and_append, BitVec.and_append, BitVec.and_allOnes, BitVec.and_allOnes, BitVec.and_zero]
  rw [hw, h1]
  constructor
  · intro h
    have hr := congrArg rsvField h
    have ho := congrArg opField h
    rw [rsvField_append, rsvField_append] at hr
    rw [opField_append, opField_append] at ho
    exact ⟨hr, ho⟩
  · rintro ⟨hr, ho⟩; rw [hr, ho]

@[simp] theorem Variant.ofCode_code (v : Variant) : Variant.ofCode v.code = v := by cases v <;> rfl

@[simp] theorem Variant.code_ofCode (c : BitVec 2) : (Variant.ofCode c).code = c := by revert c; decide

end Sys2Proof
end

