-- ==== Sys2Proof/Laws/PerInstr.lean ====
section
/-! SUPPORT. One statement about every command as syntax, a lemma per constructor. -/

namespace Sys2Proof.Laws.TransactionForm

/-- The words of a command: the first matches the command's row of the opcode map (R86) and has a zero RSV field (R71), the
payload follows unchanged (R76), and the transaction is `1 + N` words long (R78). -/
def Statement (i : Instr) : Prop :=
  (∃ row ∈ opcodeMap, row.mnemonic = i.mnemonic ∧ row.matches (encodeWord i) = true) ∧
  rsvField (encodeWord i) = 0#58 ∧
  (encode i).tail = i.payload ∧
  (encode i).length = 1 + i.payload.length

theorem init (v : Variant) (P : List Word) : Statement (.init v P) := by
  refine ⟨⟨_, List.mem_cons_self, rfl, ?_⟩, by simp [encodeWord], rfl, by simp [encode]; omega⟩
  cases v <;> (simp only [encodeWord]; decide)

theorem processBlock (P : List Word) : Statement (.processBlock P) := by
  refine ⟨⟨_, List.mem_cons_of_mem _ List.mem_cons_self, rfl, ?_⟩, by simp [encodeWord], rfl, by simp [encode]; omega⟩
  simp only [encodeWord]; decide

theorem readDigest (P : List Word) : Statement (.readDigest P) := by
  refine ⟨⟨_, List.mem_cons_of_mem _ (List.mem_cons_of_mem _ List.mem_cons_self), rfl, ?_⟩, by simp [encodeWord], rfl,
    by simp [encode]; omega⟩
  simp only [encodeWord]; decide

end Sys2Proof.Laws.TransactionForm
end

