-- ==== Sys2Proof/Laws/Rounds.lean ====
section
/-! SUPPORT. The 80 rounds: what a stretch of the loop leaves alone, how the loop splits, and the registers, window and round
index as plain recursions on the round number. -/

namespace Sys2Proof.Machine

/-- The loop does one round while RND < 80. -/
theorem roundLoop_succ (n : Nat) (s : State) (h : s.RND.val < 80) :
    roundLoop (n + 1) s = roundLoop n (doRound ⟨s.RND.val, h⟩ s) := by
  simp [roundLoop, h]

/-- Past the last round the loop does nothing (R36: RND never wraps). -/
theorem roundLoop_done (n : Nat) (s : State) (h : ¬ s.RND.val < 80) : roundLoop n s = s := by
  cases n <;> simp [roundLoop, h]

/-- A stretch of `m + n` rounds is `m` rounds and then `n`. -/
theorem roundLoop_add (m n : Nat) (s : State) : roundLoop (m + n) s = roundLoop n (roundLoop m s) := by
  induction m generalizing s with
  | zero => simp [roundLoop]
  | succ m ih =>
    by_cases h : s.RND.val < 80
    · rw [Nat.add_right_comm, roundLoop_succ _ _ h, roundLoop_succ _ _ h, ih]
    · rw [roundLoop_done _ _ h, roundLoop_done _ _ h, roundLoop_done _ _ h]

/-- What the rounds leave alone: everything but `W`, `a..h` and `RND` (R145). -/
structure RoundFrame (s t : State) : Prop where
  H : t.H = s.H
  VAR : t.VAR = s.VAR
  INITIALIZED : t.INITIALIZED = s.INITIALIZED
  PHASE : t.PHASE = s.PHASE
  rx : t.rx = s.rx
  tx : t.tx = s.tx
  wait : t.wait = s.wait
  rstHeld : t.rstHeld = s.rstHeld
  inbox : t.inbox = s.inbox
  outbox : t.outbox = s.outbox

theorem roundLoop_frame (n : Nat) (s : State) : RoundFrame s (roundLoop n s) := by
  induction n generalizing s with
  | zero => constructor <;> rfl
  | succ n ih =>
    by_cases h : s.RND.val < 80
    · rw [roundLoop_succ n s h]
      have := ih (doRound ⟨s.RND.val, h⟩ s)
      exact ⟨this.H, this.VAR, this.INITIALIZED, this.PHASE, this.rx, this.tx, this.wait, this.rstHeld, this.inbox,
        this.outbox⟩
    · rw [roundLoop_done _ _ h]; constructor <;> rfl

/-- `n` rounds from round index r leave the index `r + n` (R36). -/
theorem roundLoop_RND (n : Nat) (s : State) (h : s.RND.val + n ≤ 80) : (roundLoop n s).RND.val = s.RND.val + n := by
  induction n generalizing s with
  | zero => rfl
  | succ n ih =>
    have hs : s.RND.val < 80 := by omega
    rw [roundLoop_succ n s hs, ih _ (by simp; omega)]
    simp; omega

/-- The window and the registers after `n` rounds from round index r, as a recursion with local variables. -/
def roundsFrom : Nat → Nat → Block → Working → Block × Working
  | 0, _, W, r => (W, r)
  | n + 1, i, W, r =>
    if h : i < 80 then
      roundsFrom n (i + 1) (windowStep i W) (mixRegisters r (K ⟨i, h⟩) (SCHED i W))
    else (W, r)

theorem roundLoop_regs (n : Nat) (s : State) :
    ((roundLoop n s).W, (roundLoop n s).regs) = roundsFrom n s.RND.val s.W s.regs := by
  induction n generalizing s with
  | zero => rfl
  | succ n ih =>
    by_cases h : s.RND.val < 80
    · rw [roundLoop_succ n s h, ih]; simp [roundsFrom, h]
    · rw [roundLoop_done _ _ h]; simp [roundsFrom, h]

/-- The window is the one the schedule has before the next round. -/
theorem roundLoop_W (n : Nat) (s : State) (B : Block) (h : s.RND.val + n ≤ 80) (hW : s.W = windowBefore B s.RND.val) :
    (roundLoop n s).W = windowBefore B (s.RND.val + n) := by
  induction n generalizing s with
  | zero => simpa [roundLoop] using hW
  | succ n ih =>
    have hs : s.RND.val < 80 := by omega
    rw [roundLoop_succ n s hs, ih _ (by simp; omega) (by simp [windowBefore, hW])]
    simp only [doRound_RND, Fin.val_succ]
    congr 1; omega

/-- `add64` is the sum of words (R110). -/
@[simp] theorem add64_eq (x y : Word) : add64 x y = x + y := rfl

/-- The local loop of R149 follows the registers of the rounds. -/
theorem compressLoop_eq (n : Nat) (i : Fin 81) (W : Block) (r : Working) :
    compressLoop n i W r = (roundsFrom n i.val W r).2 := by
  induction n generalizing i W r with
  | zero => rfl
  | succ n ih =>
    by_cases h : i.val < 80
    · simp only [compressLoop, h, dite_true, roundsFrom]
      rw [ih]
      by_cases h16 : i.val < 16
      · simp [h16, windowStep, SCHED, mixRegisters, rotate, Nat.not_le.2 h16]
      · simp [h16, windowStep, SCHED, mixRegisters, rotate, recurrence, shiftWindow, Nat.not_lt.1 h16]
    · simp [compressLoop, roundsFrom, h]

/-- The fold after `n` rounds on the registers is the fold after `n` rounds of the local loop (R149). -/
theorem foldDigest_rounds (n : Nat) (H : Digest) (B : Block) :
    foldDigest H (roundsFrom n 0 B (workingOf H)).2 = foldDigest H (compressLoop n 0 B (workingOf H)) := by
  rw [compressLoop_eq]; rfl

/-- The two ways of writing the sum of R148. -/
theorem addRegisters_eq (H : Digest) (r : Working) : addRegisters H r = foldDigest H r := rfl

/-- `Compress` as a fold of the local loop (R149). -/
theorem compress_eq (H : Digest) (B : Block) : compress H B = foldDigest H (compressLoop 80 0 B (workingOf H)) :=
  addRegisters_eq _ _

/-- `H` when a block ends after `n` rounds. -/
theorem blockEnd_H (n : Nat) (B : Block) (s : State) :
    (finishBlock (roundLoop n (beginBlock B s))).H = foldDigest s.H (compressLoop n 0 B (workingOf s.H)) := by
  have h := congrArg Prod.snd (roundLoop_regs n (beginBlock B s))
  have hH := (roundLoop_frame n (beginBlock B s)).H
  simp only at h
  rw [finishBlock_H, h, hH, ← foldDigest_rounds]
  rfl

/-- What a block leaves alone, and how it ends (R140): after any number of rounds. -/
theorem blockEnd_frame (n : Nat) (B : Block) (s : State) :
    let t := finishBlock (roundLoop n (beginBlock B s))
    t.VAR = s.VAR ∧ t.INITIALIZED = s.INITIALIZED ∧ t.PHASE = .idle ∧ t.tx = offered okResponse ∧ t.rx = s.rx ∧
      t.wait = s.wait ∧ t.rstHeld = s.rstHeld ∧ t.inbox = s.inbox ∧ t.outbox = s.outbox := by
  have f := roundLoop_frame n (beginBlock B s)
  refine ⟨f.VAR, f.INITIALIZED, rfl, ?_, f.rx, f.wait, f.rstHeld, f.inbox, f.outbox⟩
  rw [finishBlock_tx, responseHeader_empty]; rfl

end Sys2Proof.Machine
end

