-- ==== Sys2Proof/Laws/Step.lean ====
section
/-! SUPPORT. What a step can do, said once: which action a state calls for, and the inversion of a step into its five cases.
Invariants and frames cite these instead of unfolding `step`. -/

namespace Sys2Proof.Machine

/-- A reset that is still held ends first (R210). -/
theorem step_endReset (s : State) (h : s.rstHeld = true) : step s = .next (resetEvent false s) := by
  simp [step, nextAction, h, perform]

/-- BUSY: the sequencer's next action (R36). -/
theorem step_busy (s : State) (h : s.rstHeld = false) (hp : s.PHASE = .busy) : step s = .next (sequencerStep s) := by
  simp [step, nextAction, h, hp, perform]

/-- A response on offer is handed over (R80). -/
theorem step_handOver (s : State) (r : Sending) (h : s.rstHeld = false) (hp : s.PHASE = .idle) (ht : s.tx = some r) :
    step s = .next (handOver r.rsp s) := by
  simp [step, nextAction, h, hp, ht, perform]

/-- Nothing to do: the engine holds its state (R198). -/
theorem step_await (s : State) (h : s.rstHeld = false) (hp : s.PHASE = .idle) (ht : s.tx = none)
    (hw : s.rx ≠ [] ∨ s.inbox = []) : step s = .next s := by
  cases hr : s.rx with
  | cons w ws => simp [step, nextAction, h, hp, ht, hr, perform]
  | nil =>
    have hi : s.inbox = [] := hw.resolve_left (fun hne => hne hr)
    simp [step, nextAction, h, hp, ht, hr, hi, perform]

/-- The oldest waiting transaction is taken (R58). -/
theorem step_take (s : State) (c : Transaction) (rest : List Transaction) (h : s.rstHeld = false)
    (hp : s.PHASE = .idle) (ht : s.tx = none) (hr : s.rx = []) (hi : s.inbox = c :: rest) :
    step s = runTransaction c (letIn rest s) := by
  simp [step, nextAction, h, hp, ht, hr, hi, perform]

/-- Every command answers a next state. -/
theorem exec_next (i : Instr) (s : State) : ∃ t, exec i s = .next t := by
  cases i <;> exact ⟨_, rfl⟩

/-- What a command can do: it is turned away with an error and writes nothing, or it is INIT, READ_DIGEST or PROCESS_BLOCK with
its effect. -/
theorem exec_cases {i : Instr} {s t : State} (h : exec i s = .next t) :
    (∃ st, st ≠ .ok ∧ t = { s with tx := offered (errorResponse st) }) ∨
    (∃ v, i = .init v [] ∧ t = { s with VAR := v, H := IV v, INITIALIZED := true, tx := offered okResponse }) ∨
    (i = .readDigest [] ∧ s.INITIALIZED = true ∧ t = { s with tx := offered (digestResponse s.VAR s.H) }) ∨
    (∃ B : Block, i = .processBlock B.toList ∧ s.INITIALIZED = true ∧
      t = finishBlock (roundLoop 80 (beginBlock B s))) := by
  have hI := Bool.eq_false_or_eq_true s.INITIALIZED
  cases i with
  | init v P =>
    injection h with h; subst h
    by_cases hP : P = []
    · subst hP; exact .inr (.inl ⟨v, rfl, initVariant_nil v s⟩)
    · exact .inl ⟨.badLength, by decide, initVariant_payload v s hP⟩
  | readDigest P =>
    injection h with h; subst h
    rcases hI with hI | hI
    · by_cases hP : P = []
      · subst hP; exact .inr (.inr (.inl ⟨rfl, hI, readDigest_ok s hI⟩))
      · exact .inl ⟨.badLength, by decide, readDigest_payload s hI hP⟩
    · exact .inl ⟨.notInitialized, by decide, readDigest_uninit P s hI⟩
  | processBlock P =>
    injection h with h; subst h
    rcases hI with hI | hI
    · by_cases hP : P.length = 16
      · obtain ⟨B, rfl⟩ : ∃ B : Block, P = B.toList := ⟨⟨⟨P⟩, hP⟩, rfl⟩
        exact .inr (.inr (.inr ⟨B, rfl, hI, processBlock_ok B s hI⟩))
      · exact .inl ⟨.badLength, by decide, processBlock_length s hI hP⟩
    · exact .inl ⟨.notInitialized, by decide, processBlock_uninit P s hI⟩

/-- A command leaves the transactions still waiting as they are. -/
theorem exec_inbox {i : Instr} {s t : State} (h : exec i s = .next t) : t.inbox = s.inbox := by
  rcases exec_cases h with ⟨st, -, rfl⟩ | ⟨v, -, rfl⟩ | ⟨-, -, rfl⟩ | ⟨B, -, -, rfl⟩
  · rfl
  · rfl
  · rfl
  · exact (blockEnd_frame 80 B s).2.2.2.2.2.2.2.1

/-- The transactions of the three commands decode to them (R86). -/
theorem decode_initTransaction (v : Variant) : decodeBeats (initTransaction v).beats = .ok (.init v []) := by
  cases v <;> rfl

theorem decode_readTransaction : decodeBeats readTransaction.beats = .ok (.readDigest []) := rfl

theorem decode_blockTransaction (B : Block) :
    decodeBeats (blockTransaction B).beats = .ok (.processBlock B.toList) := by
  simp [blockTransaction, Transaction.beats, decodeBeats, decode, encodeWord]

/-- A step that answers `t` is one of these. -/
theorem step_cases {s t : State} (h : step s = .next t) :
    (s.rstHeld = true ∧ t = resetEvent false s) ∨
    (s.rstHeld = false ∧ s.PHASE = .busy ∧ t = sequencerStep s) ∨
    (s.rstHeld = false ∧ s.PHASE = .idle ∧ ∃ r, s.tx = some r ∧ t = handOver r.rsp s) ∨
    (s.rstHeld = false ∧ s.PHASE = .idle ∧ s.tx = none ∧ (s.rx ≠ [] ∨ s.inbox = []) ∧ t = s) ∨
    (s.rstHeld = false ∧ s.PHASE = .idle ∧ s.tx = none ∧ s.rx = [] ∧ ∃ c rest, s.inbox = c :: rest ∧
      ((∃ why, decodeBeats c.beats = .error why ∧ t = raise .illegalCommand (letIn rest s)) ∨
        (∃ i, decodeBeats c.beats = .ok i ∧ exec i (letIn rest s) = .next t))) := by
  cases hh : s.rstHeld with
  | true => rw [step_endReset s hh] at h; cases h; exact .inl ⟨rfl, rfl⟩
  | false =>
    cases hp : s.PHASE with
    | busy => rw [step_busy s hh hp] at h; cases h; exact .inr (.inl ⟨rfl, rfl, rfl⟩)
    | idle =>
      cases ht : s.tx with
      | some r => rw [step_handOver s r hh hp ht] at h; cases h; exact .inr (.inr (.inl ⟨rfl, rfl, r, rfl, rfl⟩))
      | none =>
        by_cases hw : s.rx ≠ [] ∨ s.inbox = []
        · rw [step_await s hh hp ht hw] at h; cases h
          exact .inr (.inr (.inr (.inl ⟨rfl, rfl, rfl, hw, rfl⟩)))
        · rw [not_or, not_ne_iff] at hw
          obtain ⟨c, rest, hi⟩ := List.exists_cons_of_ne_nil hw.2
          rw [step_take s c rest hh hp ht hw.1 hi] at h
          refine .inr (.inr (.inr (.inr ⟨rfl, rfl, rfl, hw.1, c, rest, hi, ?_⟩)))
          unfold runTransaction at h
          split at h
          · cases h; exact .inl ⟨_, ‹_›, rfl⟩
          · exact .inr ⟨_, ‹_›, h⟩

/-- One run step after another. -/
theorem run_succ (n : Nat) (s t : State) (h : step s = .next t) : run (n + 1) s = run n t := by
  have h' : Sys2Proof.core.step s = .next t := h
  simp only [run, Host.Core.run, h']
  rfl

theorem run_zero (s : State) : run 0 s = .next s := rfl

end Sys2Proof.Machine
end

