-- ==== Sys2Proof/Tests/Slice0.lean ====
section
/-! SUPPORT. The model's own tests, each on one step, its expected values from spec/95_test_vectors.md; and for every obligation
that has hypotheses a witness, a concrete state and operands that meet all of them together. -/

namespace Sys2Proof.Tests

open Sys2Proof Sys2Proof.Machine

/-- What a next state shows; none for a fault or a refusal. -/
def seen {α : Type} (o : Host.Outcome State Fault Refusal) (f : State → α) : Option α :=
  match o with
  | .next t => some (f t)
  | .fault _ => none
  | .refused _ => none

/-- An engine out of reset with these transactions waiting. -/
def fresh (ts : List Transaction) : State := { State.reset with inbox := ts }

/-- An engine after INIT of a variant, with these transactions waiting. -/
def ready (v : Variant) (ts : List Transaction) : State :=
  { State.reset with VAR := v, H := IV v, INITIALIZED := true, inbox := ts }

/-- An engine in the middle of the "abc" block, before round n. -/
def busy (n : Nat) : State := roundLoop n (beginBlock abcBlock (ready .sha512 []))

/-- A payload of n zero words. -/
def zeros (n : Nat) : List Word := List.replicate n 0#64

/-- A quiet clock edge. -/
def quiet : PortIn := { rst := false, in_valid := false, in_data := 0#64, in_last := false, out_ready := true }

/-! ### Well-formedness: an ill-formed term for each check, refused (R75) -/

theorem test_init_with_payload_is_ill_formed : (Instr.init .sha512 [0#64]).wellFormed = false := by decide
theorem test_block_of_15_is_ill_formed : (Instr.processBlock (zeros 15)).wellFormed = false := by decide
theorem test_block_of_17_is_ill_formed : (Instr.processBlock (zeros 17)).wellFormed = false := by decide
theorem test_read_with_payload_is_ill_formed : (Instr.readDigest [0#64]).wellFormed = false := by decide
theorem test_well_formed_commands :
    ∀ i ∈ [Instr.init .sha384 [], .processBlock (zeros 16), .readDigest []], i.wellFormed = true := by decide

/-! ### Decoding: words written out from R71 (RSV 58 bits, VAR 2 bits, OP 4 bits), vectors V-D1 to V-D14 -/

theorem test_decode_init_words :
    decode 0b000000_0001#64 [] = .ok (.init .sha512 []) ∧ decode 0b000001_0001#64 [] = .ok (.init .sha384 []) ∧
    decode 0b000010_0001#64 [] = .ok (.init .sha512_224 []) ∧
    decode 0b000011_0001#64 [] = .ok (.init .sha512_256 []) := by decide
theorem test_decode_process_block_word : decode 0b000000_0010#64 (zeros 16) = .ok (.processBlock (zeros 16)) := by decide
theorem test_decode_read_digest_word : decode 0b000000_0011#64 [] = .ok (.readDigest []) := by decide
theorem test_decode_illegal_words :
    [0x0#64, 0x4#64, 0xF#64].map (decode · []) = List.replicate 3 (.error .reservedOp) ∧
    [0x12#64, 0x33#64].map (decode · []) = List.replicate 2 (.error .varNonzero) ∧
    [0x41#64, 0x8000000000000001#64, 0x1002#64].map (decode · []) = List.replicate 3 (.error .rsvNonzero) := by decide
theorem test_encode_words :
    encode (.init .sha512_256 []) = [0x31#64] ∧ encode (.readDigest []) = [0x03#64] ∧
    encode (.processBlock [7#64, 8#64]) = [0x02#64, 7#64, 8#64] := by decide

/-! ### The host's table words and the fetch -/

theorem test_table_words :
    decodeTableWord 64 0x21 = some (.init .sha512_224 []) ∧ decodeTableWord 64 0x02 = some (.processBlock (zeros 16)) ∧
    decodeTableWord 64 0x03 = some (.readDigest []) ∧ decodeTableWord 64 0x00 = none := by decide
theorem test_table_word_with_payload_bits :
    decodeTableWord 128 (0x02 + 5 * 2 ^ 64) = some (.processBlock (5#64 :: zeros 15)) := by decide
theorem test_fetch_runs_init :
    seen (step (State.reset.withFetchWord 64 0x11)) (fun t => (t.VAR, t.INITIALIZED, t.inbox)) =
      some (.sha384, true, []) := by decide
theorem test_fetch_runs_block :
    seen (step (State.reset.withFetchWord 64 0x02)) State.tx = some (offered (errorResponse .notInitialized)) := by decide

/-! ### INIT: V-I2, and V-P5 (re-initialisation) -/

theorem test_init_loads_iv :
    seen (exec (.init .sha384 []) (fresh [])) (fun t => (t.H[0], t.H[7], t.VAR, t.INITIALIZED, t.tx)) =
      some (0xCBBB9D5DC1059ED8#64, 0x47B5481DBEFA4FA4#64, .sha384, true, offered okResponse) := by decide
theorem test_init_again_replaces :
    seen (exec (.init .sha512_256 []) (ready .sha512 [])) (fun t => (t.H[3], t.VAR)) =
      some (0x963877195940EABD#64, .sha512_256) := by decide

/-! ### PROCESS_BLOCK: V-E1, and V-E2 under another variant -/

theorem test_block_abc_sha512 :
    seen (exec (.processBlock abcBlock.toList) (ready .sha512 [])) State.H =
      some #v[0xDDAF35A193617ABA#64, 0xCC417349AE204131#64, 0x12E6FA4E89A97EA2#64, 0x0A9EEEE64B55D39A#64,
              0x2192992A274FC1A8#64, 0x36BA3C23A3FEEBBD#64, 0x454D4423643CE80E#64, 0x2A9AC94FA54CA49F#64] := by
  decide +kernel
theorem test_block_abc_sha384 :
    seen (exec (.processBlock abcBlock.toList) (ready .sha384 [])) (fun t => (t.H[0], t.H[7], t.VAR)) =
      some (0xCB00753F45A35E8B#64, 0x0C66918ECE57BA15#64, .sha384) := by decide +kernel

/-- V-B3: all ones in and all ones on. -/
theorem test_compress_all_ones :
    (compress (Vector.replicate 8 0xFFFFFFFFFFFFFFFF#64) (Vector.replicate 16 0xFFFFFFFFFFFFFFFF#64)).toList =
      [0x9B0F121696E951EE#64, 0x41D0B467B741E768#64, 0x564F41EBB3B72884#64, 0xF805B40FCACB5BC1#64,
       0x3C379CFFCF02A900#64, 0x9B17A37F809AC554#64, 0x79C9FD2E1C83B6AB#64, 0xE948D9E252C02C7A#64] := by decide +kernel

/-! ### READ_DIGEST: V-I3 (half a word kept), V-X1 -/

theorem test_read_truncates_half_a_word :
    seen (exec (.readDigest []) (ready .sha512_224 [])) State.tx =
      some (offered { RSP := 0x0000000000E00400#64,
                      Q := [0x8C3D37C819544DA2#64, 0x73E1996689DCD4D6#64, 0x1DFAB7AE32FF9C82#64,
                            0x679DD51400000000#64] }) := by decide
theorem test_read_before_init :
    seen (exec (.readDigest []) (fresh [])) State.tx = some (offered { RSP := 0x2#64, Q := [] }) := by decide

/-! ### One round: the trace V-B1, before and after the first shift of the window; and the schedule V-E8 -/

theorem test_round_0 :
    (busy 1).regs = ⟨0xF6AFCEB8BCFCDDF5#64, 0x6A09E667F3BCC908#64, 0xBB67AE8584CAA73B#64, 0x3C6EF372FE94F82B#64,
      0x58CB02347AB51F91#64, 0x510E527FADE682D1#64, 0x9B05688C2B3E6C1F#64, 0x1F83D9ABFB41BD6B#64⟩ := by decide +kernel
theorem test_round_17 :
    ((busy 18).regs.a, (busy 18).regs.e, (busy 18).W[14], (busy 18).W[15]) =
      (0x4725BE249AD19E6B#64, 0xF47E8353F8047455#64, 0x6162638000000000#64, 0x00030000000000C0#64) := by decide +kernel
theorem test_schedule_words :
    (scheduleWord abcBlock 18, scheduleWord abcBlock 23) = (0x0A9699A24C700003#64, 0x62E56500CC0780F0#64) := by
  decide +kernel

/-! ### The primitives: V-F3, V-F9, V-F11, V-F14, V-F17, V-F21, V-F24, V-F28, V-F33, V-F34, V-F37 -/

theorem test_rotr_shr :
    rotr 0x0123456789ABCDEF#64 63 = 0x02468ACF13579BDE#64 ∧ shr 0xFFFFFFFFFFFFFFFF#64 63 = 1#64 := by decide
theorem test_ch_maj :
    Ch 0x0123456789ABCDEF#64 0xFEDCBA9876543210#64 0xA5A5A5A5A5A5A5A5#64 = 0xA484A08024042000#64 ∧
    Maj 0x0123456789ABCDEF#64 0xFEDCBA9876543210#64 0xA5A5A5A5A5A5A5A5#64 = 0xA5A5A5A5A5A5A5A5#64 := by decide
theorem test_sigmas :
    SIGMA0 0x0123456789ABCDEF#64 = 0xB7C57A100C7EC1AB#64 ∧ SIGMA1 0x0123456789ABCDEF#64 = 0x7703112333475567#64 ∧
    sigma0 0x0123456789ABCDEF#64 = 0x6F92C77C6C4F1AA1#64 ∧ sigma1 0x0123456789ABCDEF#64 = 0x70A3460DBBD4317A#64 := by
  decide
theorem test_mixing :
    add64 0xFFFFFFFFFFFFFFFF#64 0xFFFFFFFFFFFFFFFF#64 = 0xFFFFFFFFFFFFFFFE#64 ∧
    T1 0x0123456789ABCDEF#64 0xFEDCBA9876543210#64 0xA5A5A5A5A5A5A5A5#64 0xFFFFFFFFFFFFFFFF#64 0xFFFFFFFFFFFFFFFF#64
      0xFFFFFFFFFFFFFFFF#64 = 0x1B87B1A3574B7564#64 ∧
    T2 0x0123456789ABCDEF#64 0xFEDCBA9876543210#64 0xA5A5A5A5A5A5A5A5#64 = 0x5D6B1FB5B2246750#64 := by decide

/-! ### Errors: V-X3 and V-X4 (priority), V-X5, V-X7, V-X9 -/

theorem test_not_initialized_before_bad_length :
    seen (step (fresh [{ CMD := 0x02#64, P := zeros 15 }])) (fun t => (t.tx, t.INITIALIZED)) =
      some (offered { RSP := 0x2#64, Q := [] }, false) := by decide
theorem test_illegal_before_everything :
    seen (step (fresh [{ CMD := 0x12#64, P := zeros 16 }])) State.tx = some (offered { RSP := 0x3#64, Q := [] }) := by decide
theorem test_init_with_payload :
    seen (step (fresh [{ CMD := 0x01#64, P := [0#64] }])) (fun t => (t.tx, t.INITIALIZED)) =
      some (offered { RSP := 0x1#64, Q := [] }, false) := by decide
theorem test_block_of_17_words :
    seen (step (ready .sha512 [{ CMD := 0x02#64, P := zeros 17 }])) (fun t => (t.tx, t.H == IV .sha512)) =
      some (offered { RSP := 0x1#64, Q := [] }, true) := by decide
theorem test_read_with_payload :
    seen (step (ready .sha512 [{ CMD := 0x03#64, P := [0#64] }])) State.tx =
      some (offered { RSP := 0x1#64, Q := [] }) := by decide

/-! ### The port and the assembler -/

theorem test_init_beat_then_response_beat :
    outBeat false (edge 1 (fun _ _ => 0) { quiet with in_valid := true, in_data := 0x01#64, in_last := true } (fresh [])) =
      some { data := 0#64, last := true } := by decide
theorem test_busy_edge_holds_the_port :
    inReady false (edge 80 (fun _ _ => 0) quiet { busy 3 with wait := 80 }) = false := by decide +kernel
theorem test_line_init : readLine "INIT SHA512_224 ; start".toList = some [.init .sha512_224] := by decide +kernel
theorem test_line_raw : readLine "RAW 0x12, 0x0".toList = some [.raw 0x12#64 [0x0#64]] := by decide +kernel
/-- The two dangling commas of log entry 16: one after RAW's first word, one after a word of BLOCK. -/
theorem test_line_dangling_comma :
    readLine "RAW 0x12,".toList = some [.raw 0x12#64 []] ∧ readLine "BLOCK 0x1,".toList = none ∧
    readLine "RAW 0x12, 0x0,".toList = none ∧ readLine "BLOCK".toList = some [.block []] := by decide +kernel
theorem test_line_named_block :
    (readLine ("BLOCK ".toList ++ abcName)).map (List.map assemble) =
      some [[{ CMD := 0x02#64, P := abcBlock.toList }]] := by decide +kernel

/-! ### Witnesses: a state and operands that meet the hypotheses of each obligation, each clause at a boundary -/

/-- An engine with nothing pending is ready, whatever waits in the queue. -/
theorem fresh_ready (ts : List Transaction) : (fresh ts).Ready := ⟨rfl, rfl, rfl, rfl, rfl⟩
theorem ready_ready (v : Variant) (ts : List Transaction) : (ready v ts).Ready := ⟨rfl, rfl, rfl, rfl, rfl⟩

theorem witness_EncodeOfDecodeIsTheTransaction :
    decodeBeats (Transaction.beats { CMD := 0x31#64, P := [9#64] }) = .ok (.init .sha512_256 [9#64]) := by decide

theorem witness_OpcodeMapDecidesDecoding :
    (∃ row, row ∈ opcodeMap ∧ row.matches 0x31#64 = true) ∧ opcodeMap.all (fun row => !row.matches 0x32#64) = true :=
  ⟨⟨_, List.mem_cons_self, by decide⟩, by decide⟩

/-- One illegal word for each of the three causes, waiting at a ready engine. -/
theorem witness_ReservedEncodingsAreIllegal :
    (fresh [{ CMD := 0x41#64, P := [] }]).Ready ∧ rsvField 0x41#64 ≠ 0#58 ∧
    (opField 0x12#64 ≠ 0x1#4 ∧ varField 0x12#64 ≠ 0#2) ∧
    (opField 0x04#64 ≠ 0x1#4 ∧ opField 0x04#64 ≠ 0x2#4 ∧ opField 0x04#64 ≠ 0x3#4) :=
  ⟨fresh_ready _, by decide, by decide, by decide⟩

theorem witness_RotrMovesEveryBit : (63 : Nat) < 64 ∧ (rotr 1#64 1).getLsbD 63 = (1#64).getLsbD ((63 + 1) % 64) := by decide

/-- The last bit that moves and the first that is filled. -/
theorem witness_ShrFillsWithZeros :
    56 + (7 : Fin 64).val < 64 ∧ 64 ≤ 57 + (7 : Fin 64).val ∧ (shr 0x8000000000000000#64 7).getLsbD 56 = true := by decide

theorem witness_ChChoosesAndMajVotes : (63 : Nat) < 64 ∧ (Ch 0x8000000000000000#64 0#64 0#64).getLsbD 63 = false := by decide

/-- On both sides of the bit where the shift of `sigma0` ends. -/
theorem witness_SigmaFunctionsBitByBit :
    (57 : Nat) < 64 ∧ (sigma0 0x8000000000000000#64).getLsbD 56 = true ∧
    (sigma0 0x8000000000000000#64).getLsbD 57 = false := by decide

theorem witness_RoundConstantsAreCubeRootFractions :
    (2, 0x428A2F98D728AE22#64) ∈ (primesBelow 410).zip kTable.toList :=
  List.mem_of_mem_head? (by decide +kernel)

theorem witness_InitialValuesAreSquareRootFractions :
    (2, 0x6A09E667F3BCC908#64) ∈ (primesBelow 54).zip ((IV .sha512).toList ++ (IV .sha384).toList) :=
  List.mem_of_mem_head? (by decide +kernel)

theorem witness_TruncatedVariantsAreGenerated :
    (Variant.sha512_224, 0x5348412D3531322F#64, 0x3232348000000000#64) ∈
      [ (Variant.sha512_224, 0x5348412D3531322F#64, 0x3232348000000000#64),
        (Variant.sha512_256, 0x5348412D3531322F#64, 0x3235368000000000#64) ] := List.mem_cons_self

theorem witness_InitLoadsVariant : [0#64] ≠ ([] : List Word) := by decide

theorem witness_ProcessBlockIsCompress : (ready .sha512_256 []).INITIALIZED = true := rfl

theorem witness_ReadDigestReturnsTruncatedDigest :
    (∀ v, (ready v []).INITIALIZED = true ∧ (ready v []).VAR = v) ∧ (fresh []).INITIALIZED = false ∧
    [0#64] ≠ ([] : List Word) :=
  ⟨fun _ => ⟨rfl, rfl⟩, rfl, by decide⟩

/-- A transaction for each of the five clauses, at a ready engine in the state the clause asks for. -/
theorem witness_FirstErrorInOrderIsReported :
    (∀ ts, (fresh ts).Ready ∧ (fresh ts).inbox = ts ∧ (fresh ts).INITIALIZED = false) ∧
    (∀ ts, (ready .sha384 ts).Ready ∧ (ready .sha384 ts).inbox = ts ∧ (ready .sha384 ts).INITIALIZED = true) ∧
    decodeBeats [0x12#64] = .error .varNonzero ∧ decodeBeats [0x03#64] = .ok (.readDigest []) ∧
    decodeBeats (0x02#64 :: zeros 17) = .ok (.processBlock (zeros 17)) ∧ (zeros 17).length ≠ 16 ∧
    decodeBeats [0x03#64, 0#64] = .ok (.readDigest [0#64]) ∧ decodeBeats [0x01#64, 0#64] = .ok (.init .sha512 [0#64]) :=
  ⟨fun _ => ⟨fresh_ready _, rfl, rfl⟩, fun _ => ⟨ready_ready _ _, rfl, rfl⟩,
    by decide, by decide, by decide, by decide, by decide, by decide⟩

theorem witness_FailedCommandWritesNothing :
    (exec (.readDigest []) (fresh []) = .next (raise .notInitialized (fresh [])) ∧
      (raise .notInitialized (fresh [])).tx = offered (errorResponse .notInitialized) ∧
      statusField (errorResponse .notInitialized).RSP ≠ 0#4) ∧
    ((fresh [readTransaction]).Ready ∧ (fresh [readTransaction]).inbox = readTransaction :: [] ∧
      step (fresh [readTransaction]) = .next (raise .notInitialized (fresh []))) :=
  ⟨⟨rfl, by decide, by decide⟩, fresh_ready _, rfl, rfl⟩

theorem witness_WellFormedCommandsAreAnsweredOk :
    (ready .sha512 []).INITIALIZED = true ∧ (Instr.processBlock (zeros 16)).wellFormed = true ∧
    (Instr.processBlock (zeros 15)).wellFormed = false := by decide

/-- A step that changes `VAR`, `INITIALIZED` and `H` (an INIT), one that changes `H` by a block, and one by the fold. -/
theorem witness_WritersOfDigestVariantAndFlag :
    (fresh [initTransaction .sha384]).rstHeld = false ∧ (ready .sha512 [blockTransaction abcBlock]).rstHeld = false ∧
    (busy 80).rstHeld = false ∧ seen (step (busy 80)) (fun t => t.H == (busy 80).H) = some false ∧
    seen (step (fresh [initTransaction .sha384])) (fun t => (t.VAR == (fresh []).VAR, t.INITIALIZED, t.H == (fresh []).H)) =
      some (false, true, false) ∧
    seen (step (ready .sha512 [blockTransaction abcBlock])) (fun t => t.H == IV .sha512) = some false := by
  decide +kernel

theorem witness_ReadAndInitAreIdempotent :
    (ready .sha512 [readTransaction, readTransaction]).Ready ∧
    (ready .sha512 [readTransaction, readTransaction]).inbox = readTransaction :: readTransaction :: [] ∧
    exec (.init .sha512 []) (fresh []) = .next (initVariant .sha512 [] (fresh [])) :=
  ⟨ready_ready _ _, rfl, rfl⟩

/-- The last round that does not move the window and the first that does. -/
theorem witness_BusyStepIsOneRound :
    ((busy 15).RND.val < 16 ∧ (busy 15).rstHeld = false ∧ (busy 15).PHASE = .busy) ∧
    (16 ≤ (busy 16).RND.val ∧ (busy 16).RND.val < 80 ∧ (busy 16).rstHeld = false ∧ (busy 16).PHASE = .busy) := by
  decide +kernel

theorem witness_BusyStepEndsWithFold :
    (busy 80).rstHeld = false ∧ (busy 80).PHASE = .busy ∧ (busy 80).RND = 80 := by decide +kernel

theorem witness_RoundsRunInOrder : (80 : Nat) ≤ 80 ∧ (ready .sha512 []).rstHeld = false := by decide

theorem witness_RoundByRoundEqualsAtomicCommand :
    (ready .sha384 []).INITIALIZED = true ∧ (ready .sha384 []).rstHeld = false ∧ (ready .sha384 []).wait = 0 := by decide

/-- The ends of the two ranges, and the word where they meet (V-E8). -/
theorem witness_WindowRealisesTheSchedule :
    (15 : Nat) < 16 ∧ 16 ≤ (16 : Nat) ∧ (79 : Nat) < 80 ∧ scheduleWord abcBlock 15 = 0x18#64 ∧
    scheduleWord abcBlock 16 = 0x6162638000000000#64 := by decide +kernel

theorem witness_CircularBufferGivesTheSameSchedule : 16 ≤ (16 : Nat) ∧ (15 : Nat) < 16 := by decide

theorem witness_StepRunsTheDecodedCommand :
    (fresh [initTransaction .sha512]).Ready ∧
    (fresh [initTransaction .sha512]).inbox = initTransaction .sha512 :: [] ∧
    decodeBeats (initTransaction .sha512).beats = .ok (.init .sha512 []) ∧ decodeBeats [0#64] = .error .reservedOp :=
  ⟨fresh_ready _, rfl, by decide, by decide⟩

theorem witness_StepBetweenCommands :
    (raise .badLength (fresh [])).rstHeld = false ∧ (raise .badLength (fresh [])).PHASE = .idle ∧
    (raise .badLength (fresh [])).tx = some { rsp := errorResponse .badLength, sent := 0 } ∧
    (fresh []).tx = none ∧ (fresh []).inbox = [] := by decide

/-- The invariant holds in the middle of a block, where the step is a round. -/
theorem witness_StepKeepsInvariant :
    (beginBlock abcBlock (ready .sha512 [])).Inv ∧
    step (beginBlock abcBlock (ready .sha512 [])) = .next (sequencerStep (beginBlock abcBlock (ready .sha512 []))) :=
  ⟨⟨fun _ => rfl, fun _ => ⟨rfl, rfl⟩, fun _ => rfl, fun r h => by simp [beginBlock, loadWorking, loadWindow, ready, State.reset] at h,
    fun r h => by simp [beginBlock, loadWorking, loadWindow, ready, State.reset] at h, fun _ _ => rfl,
    fun h => by simp [beginBlock, loadWorking, loadWindow, ready, State.reset] at h⟩, rfl⟩

theorem witness_EdgeKeepsInvariant : (ready .sha512 []).Inv :=
  ⟨fun _ => rfl, fun _ => ⟨rfl, rfl⟩, fun _ => rfl, fun r h => by simp [ready, State.reset] at h,
    fun r h => by simp [ready, State.reset] at h, fun _ _ => rfl, fun h => by simp [ready, State.reset] at h⟩

theorem witness_HeaderFieldsOfEveryResponse :
    (errorResponse .illegalCommand).Listed ∧ statusField (errorResponse .illegalCommand).RSP ≠ 0#4 ∧
    (digestResponse .sha512_224 (IV .sha512_224)).Listed := by decide

theorem witness_OneResponsePerTransaction :
    (fresh [readTransaction, { CMD := 0#64, P := [1#64] }]).Ready := fresh_ready _

theorem witness_BlocksChainThroughTheDigest :
    (fresh (initTransaction .sha384 :: ([abcBlock, abcBlock].map blockTransaction ++ [readTransaction]))).Ready :=
  fresh_ready _

/-- Two different states the host cannot tell apart: IDLE before INIT, with another `H` and another window. -/
theorem witness_HiddenStateNeverShows :
    SameToHost (fresh [readTransaction])
      { fresh [readTransaction] with H := IV .sha512, VAR := .sha384, W := abcBlock, RND := 80 } ∧
    run 1 (fresh [readTransaction]) = .next (raise .notInitialized (fresh [])) :=
  ⟨⟨rfl, rfl, fun h => by simp [fresh, State.reset] at h, fun h => by simp [fresh, State.reset] at h,
    rfl, rfl, rfl, rfl, rfl, rfl⟩, rfl⟩

theorem witness_BackPressureHoldsBeatsBack :
    inReady false (raise .badLength (fresh [])) = false ∧ { quiet with in_valid := true }.rst = quiet.rst ∧
    { quiet with in_valid := true }.out_ready = quiet.out_ready := by decide

theorem witness_ResetAbandonsEverything :
    [{ quiet with rst := true }] ≠ ([] : List PortIn) ∧ [{ quiet with rst := true }].all PortIn.rst = true ∧
    quiet.rst = false := by decide

theorem witness_BlockIsBusyForBlockLatency :
    1 ≤ 3 ∧ (ready .sha512 []).rstHeld = false ∧ (ready .sha512 []).INITIALIZED = true ∧
    [quiet, quiet, quiet].all (fun i => !i.rst) = true ∧ [quiet, quiet].length < 3 ∧ [quiet, quiet, quiet].length = 3 := by
  decide

theorem witness_SignalsRefineTheTransactionStep :
    1 ≤ 1 ∧ (ready .sha512 [blockTransaction abcBlock]).Ready ∧
    (ready .sha512 [blockTransaction abcBlock]).inbox = blockTransaction abcBlock :: [] :=
  ⟨Nat.le_refl 1, ready_ready _ _, rfl⟩

theorem witness_ResponseLeavesBeatByBeat :
    (readDigest [] (ready .sha384 [])).rstHeld = false ∧ (readDigest [] (ready .sha384 [])).PHASE = .idle ∧
    (readDigest [] (ready .sha384 [])).wait = 0 ∧
    (readDigest [] (ready .sha384 [])).tx = offered (digestResponse .sha384 (IV .sha384)) := by decide

theorem witness_HiddenStateNeverShowsAtTheSignals :
    SameToHost (fresh []) { fresh [] with regs := workingOf (IV .sha512), VAR := .sha384 } :=
  ⟨rfl, rfl, fun h => by simp [fresh, State.reset] at h, fun h => by simp [fresh, State.reset] at h,
    rfl, rfl, rfl, rfl, rfl, rfl⟩

theorem witness_InstancesAreIndependent :
    (0 : Fin 2) ≠ 1 ∧ (Platform.reset 2).stepAt 0 = .next ((Platform.reset 2).set 0 State.reset) ∧
    Platform.stepAt (n := 2) 1 ((Platform.reset 2).set 0 State.reset) =
      .next (((Platform.reset 2).set 0 State.reset).set 1 State.reset) :=
  ⟨by decide, rfl, rfl⟩

theorem witness_Hash1GivesTheDigest : (fresh (assemble (.hash1 .sha512_224 abcBlock))).Ready := fresh_ready _

end Sys2Proof.Tests
end

section
/-! SUPPORT. What one clock edge does (Machine/Port.lean), one equation per case of `edge`; and what beginning a command
can do. -/

namespace Sys2Proof.Machine

section
variable {BL : Nat} {CL : Nat → List Word → Nat} {i : PortIn} {s : State}

/-- `rst` is high (R210). -/
theorem edge_reset (hi : i.rst = true) : edge BL CL i s = resetEvent true s := by
  simp [edge, hi]

/-- The edge after `rst` falls (R210). -/
theorem edge_endReset (hi : i.rst = false) (hr : s.rstHeld = true) : edge BL CL i s = resetEvent false s := by
  simp [edge, hi, hr]

/-- BUSY: the port is not looked at (R84). -/
theorem edge_busy (hi : i.rst = false) (hr : s.rstHeld = false) (hp : s.PHASE = .busy) :
    edge BL CL i s = busyEdge s := by
  simp [edge, hi, hr, hp]

/-- A response whose latency has not passed (R225). -/
theorem edge_latency {r : Sending} (hi : i.rst = false) (hr : s.rstHeld = false) (hp : s.PHASE = .idle)
    (ht : s.tx = some r) (hw : s.wait ≠ 0) : edge BL CL i s = { s with wait := s.wait - 1 } := by
  simp [edge, hi, hr, hp, ht, hw]

/-- A response beat on offer, and the host ready (R84). -/
theorem edge_give {r : Sending} (hi : i.rst = false) (hr : s.rstHeld = false) (hp : s.PHASE = .idle)
    (ht : s.tx = some r) (hw : s.wait = 0) (ho : i.out_ready = true) : edge BL CL i s = giveBeat r s := by
  simp [edge, hi, hr, hp, ht, hw, ho]

/-- A response beat on offer, and the host not ready (R84). -/
theorem edge_hold {r : Sending} (hi : i.rst = false) (hr : s.rstHeld = false) (hp : s.PHASE = .idle)
    (ht : s.tx = some r) (hw : s.wait = 0) (ho : i.out_ready = false) : edge BL CL i s = s := by
  simp [edge, hi, hr, hp, ht, hw, ho]

/-- IDLE with nothing to send, and a beat offered (R84). -/
theorem edge_take (hi : i.rst = false) (hr : s.rstHeld = false) (hp : s.PHASE = .idle) (ht : s.tx = none)
    (hv : i.in_valid = true) : edge BL CL i s = takeBeat BL CL { data := i.in_data, last := i.in_last } s := by
  simp [edge, hi, hr, hp, ht, hv]

/-- IDLE with nothing to send and no beat offered (R198). -/
theorem edge_await (hi : i.rst = false) (hr : s.rstHeld = false) (hp : s.PHASE = .idle) (ht : s.tx = none)
    (hv : i.in_valid = false) : edge BL CL i s = s := by
  simp [edge, hi, hr, hp, ht, hv]

end

/-- A busy cycle that is not the last: one round (log entry 9). -/
theorem busyEdge_round (s : State) (h : 1 < s.wait) : busyEdge s = { roundLoop 1 s with wait := s.wait - 1 } := by
  simp [busyEdge, Nat.not_le.2 h]

/-- The last busy cycle: the rounds that remain, the fold and the response (log entry 9). -/
theorem busyEdge_finish (s : State) (h : s.wait ≤ 1) :
    busyEdge s = { finishBlock (roundLoop 80 s) with wait := 0 } := by
  simp [busyEdge, h]

/-- A block that passes its checks is begun, and is busy for `BL` cycles (R8). -/
theorem beginCommand_block (BL cl : Nat) (B : Block) (s : State) (h : s.INITIALIZED = true) :
    beginCommand BL cl (.processBlock B.toList) s = { beginBlock B s with wait := BL } := by
  simp [beginCommand, checkBlock_ok B s h]

/-- A command is begun as an accepted block, or else executed whole with its answer due after `cl` cycles. -/
theorem beginCommand_cases (BL cl : Nat) (i : Instr) (s : State) :
    (∃ B : Block, i = .processBlock B.toList ∧ s.INITIALIZED = true ∧
      beginCommand BL cl i s = { beginBlock B s with wait := BL }) ∨
    (∃ u, exec i s = .next u ∧ beginCommand BL cl i s = { u with wait := cl }) := by
  cases i with
  | init v P => exact .inr ⟨_, rfl, rfl⟩
  | readDigest P => exact .inr ⟨_, rfl, rfl⟩
  | processBlock P =>
    cases hc : checkBlock P s with
    | ok B =>
      obtain ⟨hI, rfl⟩ := checkBlock_eq_ok hc
      exact .inl ⟨B, rfl, hI, beginCommand_block BL cl B s hI⟩
    | error st =>
      refine .inr ⟨_, rfl, ?_⟩
      simp [beginCommand, processBlock, hc]

end Sys2Proof.Machine
end

section
/-! The invariant at a clock edge (O34): first what makes an answered state have it, then one lemma for each thing an edge can
do. -/

namespace Sys2Proof.Machine

/-- `t` is `s` with a response of R82 just offered: the engine is IDLE, and what the port received, `rst` and the two ends of
the run are as they were. -/
structure Answered (s t : State) : Prop where
  response : ∃ r : Response, r.Listed ∧ t.tx = offered r
  idle : t.PHASE = .idle
  rx : t.rx = s.rx
  rstHeld : t.rstHeld = s.rstHeld
  inbox : t.inbox = s.inbox
  outbox : t.outbox = s.outbox

/-- When the response is due does not matter. -/
theorem Answered.withWait {s t : State} (h : Answered s t) (n : Nat) : Answered s { t with wait := n } :=
  ⟨h.response, h.idle, h.rx, h.rstHeld, h.inbox, h.outbox⟩

/-- Turning a command away answers it (R185). -/
theorem raise_answered (st : Status) (s : State) (hp : s.PHASE = .idle) : Answered s (raise st s) := by
  rw [raise_eq]
  exact ⟨⟨_, errorResponse_listed st, rfl⟩, hp, rfl, rfl, rfl, rfl⟩

/-- The end of a block answers it (R140), whatever rounds were done. -/
theorem finishBlock_answered (n : Nat) (s : State) : Answered s (finishBlock (roundLoop n s)) := by
  have f := roundLoop_frame n s
  exact ⟨⟨okResponse, errorResponse_listed .ok, by rw [finishBlock_tx, responseHeader_empty]; rfl⟩, rfl, f.rx, f.rstHeld,
    f.inbox, f.outbox⟩

/-- Every command executed by an IDLE engine is answered (R80). -/
theorem exec_answered {i : Instr} {s t : State} (hp : s.PHASE = .idle) (h : exec i s = .next t) : Answered s t := by
  rcases exec_cases h with ⟨st, -, rfl⟩ | ⟨v, -, rfl⟩ | ⟨-, -, rfl⟩ | ⟨B, -, -, rfl⟩
  · exact ⟨⟨_, errorResponse_listed st, rfl⟩, hp, rfl, rfl, rfl, rfl⟩
  · exact ⟨⟨_, errorResponse_listed .ok, rfl⟩, hp, rfl, rfl, rfl, rfl⟩
  · exact ⟨⟨_, digestResponse_listed s.VAR s.H, rfl⟩, hp, rfl, rfl, rfl, rfl⟩
  · have a := finishBlock_answered 80 (beginBlock B s)
    exact ⟨a.response, a.idle, a.rx, a.rstHeld, a.inbox, a.outbox⟩

/-- An engine out of reset that has received nothing more has the invariant once it has answered. -/
theorem Answered.inv {s t : State} (h : Answered s t) (hr : s.rstHeld = false) (hx : s.rx = [])
    (ho : ∀ r ∈ s.outbox, r.Listed) : t.Inv := by
  obtain ⟨⟨r, hl, ht⟩, hp, hx', hr', -, ho'⟩ := h
  constructor
  case busyAfterInit => simp [hp]
  case busyPortEmpty => simp [hp]
  case oneTransaction => exact fun _ => hx'.trans hx
  case pendingListed =>
    intro q hq
    cases ht.symm.trans hq
    exact ⟨hl, Nat.zero_le _⟩
  case givenListed => rwa [ho']
  case waitHasCause => simp [ht, offered]
  case resetIdle => simp [hr', hr]

/-- Reset establishes the invariant, but for the responses already given (R210). -/
theorem resetEvent_inv (high : Bool) (s : State) (ho : ∀ r ∈ s.outbox, r.Listed) : (resetEvent high s).Inv := by
  constructor
  case givenListed => exact ho
  all_goals simp

/-- A busy cycle: another round leaves everything the invariant speaks of but `wait`, and the last one answers. -/
theorem busyEdge_keepsInv {s : State} (h : s.Inv) (hr : s.rstHeld = false) (hp : s.PHASE = .busy) :
    (busyEdge s).Inv := by
  obtain ⟨ht, hx⟩ := h.busyPortEmpty hp
  by_cases hw : s.wait ≤ 1
  · rw [busyEdge_finish s hw]
    exact ((finishBlock_answered 80 s).withWait 0).inv hr hx h.givenListed
  · rw [busyEdge_round s (Nat.not_le.1 hw)]
    have f := roundLoop_frame 1 s
    constructor
    case busyAfterInit => exact fun _ => f.INITIALIZED.trans (h.busyAfterInit hp)
    case busyPortEmpty => exact fun _ => ⟨f.tx.trans ht, f.rx.trans hx⟩
    case oneTransaction => exact fun _ => f.rx.trans hx
    case pendingListed => simp [f.tx, ht]
    case givenListed => simpa [f.outbox] using h.givenListed
    case waitHasCause => simp [f.PHASE, hp]
    case resetIdle => simp [f.rstHeld, hr]

/-- A cycle of the latency of a response. -/
theorem countDown_keepsInv {s : State} {r : Sending} (h : s.Inv) (ht : s.tx = some r) :
    { s with wait := s.wait - 1 }.Inv :=
  { h with waitHasCause := by simp [ht] }

/-- A response beat given: one more, within the response, or the last, and the response joins those given (R84). -/
theorem giveBeat_keepsInv {s : State} {r : Sending} (h : s.Inv) (hr : s.rstHeld = false) (hp : s.PHASE = .idle)
    (ht : s.tx = some r) : (giveBeat r s).Inv := by
  obtain ⟨hl, -⟩ := h.pendingListed r ht
  have hx : s.rx = [] := h.oneTransaction (by simp [ht])
  unfold giveBeat
  split
  next hlt =>
    constructor
    case busyAfterInit => exact h.busyAfterInit
    case busyPortEmpty => simp [hp]
    case oneTransaction => exact fun _ => hx
    case pendingListed => rintro q ⟨⟩; exact ⟨hl, hlt⟩
    case givenListed => exact h.givenListed
    case waitHasCause => simp
    case resetIdle => simp [hr]
  next =>
    constructor
    case busyAfterInit => exact h.busyAfterInit
    case busyPortEmpty => simp [hp]
    case oneTransaction => simp
    case pendingListed => simp
    case givenListed =>
      intro q hq
      rcases List.mem_append.1 hq with hq | hq
      · exact h.givenListed q hq
      · rwa [List.mem_singleton.1 hq]
    case waitHasCause => exact fun _ _ => rfl
    case resetIdle => simp [hr]

/-- A transaction whose last beat has come begins a block on an initialised engine, or is answered (R78, R80). -/
theorem beginTransaction_inv (BL cl : Nat) (beats : List Word) {s : State} (hr : s.rstHeld = false)
    (hp : s.PHASE = .idle) (ht : s.tx = none) (hx : s.rx = []) (ho : ∀ r ∈ s.outbox, r.Listed) :
    (beginTransaction BL cl beats s).Inv := by
  unfold beginTransaction
  split
  next => exact ((raise_answered .illegalCommand s hp).withWait cl).inv hr hx ho
  next i _ =>
    rcases beginCommand_cases BL cl i s with ⟨B, -, hI, hB⟩ | ⟨u, hu, hB⟩
    · rw [hB]
      constructor
      case busyAfterInit => exact fun _ => hI
      case busyPortEmpty => exact fun _ => ⟨ht, hx⟩
      case oneTransaction => exact fun _ => hx
      case pendingListed => simp [ht]
      case givenListed => exact ho
      case waitHasCause => simp
      case resetIdle => simp [hr]
    · rw [hB]
      exact ((exec_answered hp hu).withWait cl).inv hr hx ho

/-- A command beat taken: it is kept, or with the last one the transaction is begun (R84). -/
theorem takeBeat_keepsInv (BL : Nat) (CL : Nat → List Word → Nat) (b : Beat) {s : State} (h : s.Inv)
    (hr : s.rstHeld = false) (hp : s.PHASE = .idle) (ht : s.tx = none) : (takeBeat BL CL b s).Inv := by
  unfold takeBeat
  split
  next => exact beginTransaction_inv _ _ _ hr hp ht rfl h.givenListed
  next =>
    constructor
    case busyAfterInit => exact h.busyAfterInit
    case busyPortEmpty => simp [hp]
    case oneTransaction => simp [ht]
    case pendingListed => exact h.pendingListed
    case givenListed => exact h.givenListed
    case waitHasCause => exact h.waitHasCause
    case resetIdle => simp [hr]

/-- Every edge keeps the invariant: the cases are those of `edge`. -/
theorem edge_keepsInv (BL : Nat) (CL : Nat → List Word → Nat) (i : PortIn) {s : State} (h : s.Inv) :
    (edge BL CL i s).Inv := by
  cases hi : i.rst with
  | true => rw [edge_reset hi]; exact resetEvent_inv true s h.givenListed
  | false =>
    cases hr : s.rstHeld with
    | true => rw [edge_endReset hi hr]; exact resetEvent_inv false s h.givenListed
    | false =>
      cases hp : s.PHASE with
      | busy => rw [edge_busy hi hr hp]; exact busyEdge_keepsInv h hr hp
      | idle =>
        cases ht : s.tx with
        | some r =>
          by_cases hw : s.wait = 0
          · cases ho : i.out_ready with
            | true => rw [edge_give hi hr hp ht hw ho]; exact giveBeat_keepsInv h hr hp ht
            | false => rwa [edge_hold hi hr hp ht hw ho]
          · rw [edge_latency hi hr hp ht hw]; exact countDown_keepsInv h ht
        | none =>
          cases hv : i.in_valid with
          | true => rw [edge_take hi hr hp ht hv]; exact takeBeat_keepsInv BL CL _ h hr hp ht
          | false => rwa [edge_await hi hr hp ht hv]

/-- Settles O34: it holds, by the cases of an edge; a response is only ever offered by a command's answer (`Answered`). -/
theorem edgeKeepsInvariant : Obligations.EdgeKeepsInvariant := fun BL CL i _ h => edge_keepsInv BL CL i h

end Sys2Proof.Machine
end

section
/-! The busy phase of a block at the signals (O41): one round a cycle until the last, which does the rest and folds. -/

namespace Sys2Proof.Machine

/-- The rounds do not look at the cycle counter. -/
theorem roundLoop_withWait (n w : Nat) (s : State) :
    roundLoop n { s with wait := w } = { roundLoop n s with wait := w } := by
  induction n generalizing s with
  | zero => rfl
  | succ n ih =>
    by_cases h : s.RND.val < 80
    · rw [roundLoop_succ n s h, ← ih]; exact roundLoop_succ n { s with wait := w } h
    · rw [roundLoop_done _ s h, roundLoop_done _ { s with wait := w } h]

/-- A busy edge that is not the last of `w`: one round. -/
theorem edge_busy_round {BL : Nat} {CL : Nat → List Word → Nat} {i : PortIn} {s : State} {w : Nat}
    (hi : i.rst = false) (hr : s.rstHeld = false) (hp : s.PHASE = .busy) (hw : 1 < w) :
    edge BL CL i { s with wait := w } = { roundLoop 1 s with wait := w - 1 } := by
  rw [edge_busy (s := { s with wait := w }) hi hr hp, busyEdge_round _ hw, roundLoop_withWait]

/-- A last busy edge: the rounds that remain, the fold and the response. -/
theorem edge_busy_finish {BL : Nat} {CL : Nat → List Word → Nat} {i : PortIn} {s : State} {w : Nat}
    (hi : i.rst = false) (hr : s.rstHeld = false) (hp : s.PHASE = .busy) (hw : w ≤ 1) :
    edge BL CL i { s with wait := w } = { finishBlock (roundLoop 80 s) with wait := 0 } := by
  rw [edge_busy (s := { s with wait := w }) hi hr hp, busyEdge_finish _ hw, roundLoop_withWait]
  rfl

/-- Once the rounds up to 80 are done, more fuel does nothing (R36). -/
theorem roundLoop_exhausted (n : Nat) (s : State) (h : 80 - s.RND.val ≤ n) :
    roundLoop n s = roundLoop (80 - s.RND.val) s := by
  obtain ⟨m, rfl⟩ := Nat.exists_eq_add_of_le h
  have hR := roundLoop_RND (80 - s.RND.val) s (by omega)
  rw [roundLoop_add, roundLoop_done _ _ (by omega)]

/-- A round done first is one round fewer to do: eighty rounds always suffice. -/
theorem roundLoop_80_roundLoop (n : Nat) (s : State) : roundLoop 80 (roundLoop n s) = roundLoop 80 s := by
  rw [← roundLoop_add, roundLoop_exhausted (n + 80) s (by omega), roundLoop_exhausted 80 s (by omega)]

/-- While more than the last of `w` cycles is left, each edge of a busy engine does one round, whatever comes on the port. -/
theorem edges_busy (BL : Nat) (CL : Nat → List Word → Nat) {ins : List PortIn} (hins : ∀ i ∈ ins, i.rst = false)
    (s : State) (w : Nat) (hr : s.rstHeld = false) (hp : s.PHASE = .busy) (hn : ins.length < w) :
    edges BL CL ins { s with wait := w } = { roundLoop ins.length s with wait := w - ins.length } := by
  induction ins generalizing s w with
  | nil => rfl
  | cons i is ih =>
    obtain ⟨hi, his⟩ := List.forall_mem_cons.1 hins
    rw [List.length_cons] at hn ⊢
    have f := roundLoop_frame 1 s
    calc edges BL CL is (edge BL CL i { s with wait := w })
        = edges BL CL is { roundLoop 1 s with wait := w - 1 } := by
          rw [edge_busy_round hi hr hp (by omega)]
      _ = { roundLoop is.length (roundLoop 1 s) with wait := w - 1 - is.length } :=
          ih his _ _ (f.rstHeld.trans hr) (f.PHASE.trans hp) (by omega)
      _ = { roundLoop (is.length + 1) s with wait := w - (is.length + 1) } := by
          rw [← roundLoop_add, Nat.add_comm 1, Nat.sub_sub, Nat.add_comm 1]

/-- As many edges as the busy phase has cycles end the block: all rounds done, the fold, and the response. -/
theorem edges_finish (BL : Nat) (CL : Nat → List Word → Nat) {ins : List PortIn} (hins : ∀ i ∈ ins, i.rst = false)
    (s : State) (hr : s.rstHeld = false) (hp : s.PHASE = .busy) (hne : ins ≠ []) :
    edges BL CL ins { s with wait := ins.length } = { finishBlock (roundLoop 80 s) with wait := 0 } := by
  induction ins generalizing s with
  | nil => contradiction
  | cons i is ih =>
    obtain ⟨hi, his⟩ := List.forall_mem_cons.1 hins
    rw [edges]
    cases is with
    | nil => exact edge_busy_finish hi hr hp (Nat.le_refl 1)
    | cons j js =>
      have f := roundLoop_frame 1 s
      rw [edge_busy_round hi hr hp (by simp), ← roundLoop_80_roundLoop 1 s]
      exact ih his _ (f.rstHeld.trans hr) (f.PHASE.trans hp) (List.cons_ne_nil j js)

/-- The empty OK is offered as one beat, zero and marked last (R82, R84). -/
theorem outBeat_ok {s : State} (hr : s.rstHeld = false) (hp : s.PHASE = .idle) (hw : s.wait = 0)
    (ht : s.tx = offered okResponse) : outBeat false s = some { data := 0#64, last := true } := by
  simp [outBeat, hr, hp, hw, ht, offered, okResponse, Response.beats]

/-- Settles O41: it holds; before the last cycle the engine is in its rounds (`edges_busy`), and after it where the atomic
command ends (`edges_finish`). -/
theorem blockIsBusyForBlockLatency : Obligations.BlockIsBusyForBlockLatency := by
  intro BL CL B s ins hBL hr hI hins
  rw [beginCommand_block BL 0 B s hI]
  constructor
  · intro hn
    rw [edges_busy BL CL hins (beginBlock B s) BL hr rfl hn]
    exact (roundLoop_frame ins.length (beginBlock B s)).PHASE
  · rintro rfl
    rw [edges_finish _ CL hins (beginBlock B s) hr rfl (List.ne_nil_of_length_pos hBL)]
    have hH := (blockEnd_H 80 B s).trans (compress_eq s.H B).symm
    obtain ⟨-, -, hp, ht, -, -, hr', -, -⟩ := blockEnd_frame 80 B s
    generalize finishBlock (roundLoop 80 (beginBlock B s)) = t at *
    exact ⟨hp, hH, outBeat_ok (hr'.trans hr) hp rfl ht⟩

end Sys2Proof.Machine
end

section
/-! The invariant of a transaction-level step (O33), from the reset state on (O32). A command taken is answered
(`Answered`), as at the signals; what is left to say is a round and a response handed over. -/

namespace Sys2Proof.Machine

/-- A sequencer action before the end of a block is one turn of the round loop (R36). -/
theorem sequencerStep_round {s : State} (h : s.RND.val < 80) : sequencerStep s = roundLoop 1 s := by
  simp [sequencerStep, h, roundLoop]

/-- Past the last round the sequencer ends the block (R36). -/
theorem sequencerStep_finish {s : State} (h : ¬ s.RND.val < 80) :
    sequencerStep s = finishBlock { s with wait := 0 } := by
  simp [sequencerStep, h]

/-- The invariant does not speak of `W`, `a..h` and `RND`, all that the rounds write (R145). -/
theorem RoundFrame.inv {s t : State} (f : RoundFrame s t) (h : s.Inv) : t.Inv := by
  obtain ⟨-, -, hI, hp, hx, ht, hw, hr, -, ho⟩ := f
  constructor
  case busyAfterInit => simpa only [hp, hI] using h.busyAfterInit
  case busyPortEmpty => simpa only [hp, ht, hx] using h.busyPortEmpty
  case oneTransaction => simpa only [ht, hx] using h.oneTransaction
  case pendingListed => simpa only [ht] using h.pendingListed
  case givenListed => simpa only [ho] using h.givenListed
  case waitHasCause => simpa only [hp, ht, hw] using h.waitHasCause
  case resetIdle => simpa only [hr, hp, ht, hx, hI] using h.resetIdle

/-- An action of the sequencer: another round, or the fold, which answers the block. -/
theorem sequencerStep_keepsInv {s : State} (h : s.Inv) (hr : s.rstHeld = false) (hp : s.PHASE = .busy) :
    (sequencerStep s).Inv := by
  by_cases hR : s.RND.val < 80
  · rw [sequencerStep_round hR]
    exact (roundLoop_frame 1 s).inv h
  · rw [sequencerStep_finish hR]
    exact (finishBlock_answered 0 { s with wait := 0 }).inv hr (h.busyPortEmpty hp).2 h.givenListed

/-- A response handed over joins those given (R84). -/
theorem handOver_keepsInv {s : State} {r : Sending} (h : s.Inv) (hr : s.rstHeld = false) (hp : s.PHASE = .idle)
    (ht : s.tx = some r) : (handOver r.rsp s).Inv := by
  obtain ⟨hl, -⟩ := h.pendingListed r ht
  constructor
  case givenListed => exact List.forall_mem_append.2 ⟨h.givenListed, List.forall_mem_singleton.2 hl⟩
  all_goals simp [hp, hr]

/-- Every step keeps the invariant: the cases are those of `step`. -/
theorem step_keepsInv {s t : State} (h : s.Inv) (hs : step s = .next t) : t.Inv := by
  rcases step_cases hs with ⟨-, rfl⟩ | ⟨hr, hp, rfl⟩ | ⟨hr, hp, r, ht, rfl⟩ | ⟨-, -, -, -, rfl⟩ |
    ⟨hr, hp, -, hx, c, rest, -, ⟨why, -, rfl⟩ | ⟨i, -, hi⟩⟩
  · exact resetEvent_inv false s h.givenListed
  · exact sequencerStep_keepsInv h hr hp
  · exact handOver_keepsInv h hr hp ht
  · exact h
  · exact (raise_answered .illegalCommand (letIn rest s) hp).inv hr hx h.givenListed
  · exact (exec_answered (s := letIn rest s) hp hi).inv hr hx h.givenListed

/-- Settles O33: it holds, by the cases of a step. -/
theorem stepKeepsInvariant : Obligations.StepKeepsInvariant := fun _ _ h hs => step_keepsInv h hs

/-- Settles O32: it holds; the reset state is what the reset event leaves (`resetEvent_inv`). -/
theorem resetIsReadyAndUninitialised : Obligations.ResetIsReadyAndUninitialised :=
  ⟨rfl, rfl, ⟨rfl, rfl, rfl, rfl, rfl⟩, resetEvent_inv false State.reset (by simp [State.reset]), rfl, rfl⟩

end Sys2Proof.Machine
end

section
/-! What the host cannot see never shows (O38, O44). Each operation takes two states the host cannot tell apart
(`SameToHost`) to two such states; then a step and an edge, which branch on what the host sees, do so too. -/

namespace Sys2Proof.Machine

section
variable {s s' : State}

/-- The latency counter may be set to the same number in both. -/
theorem SameToHost.withWait (h : SameToHost s s') (n : Nat) :
    SameToHost { s with wait := n } { s' with wait := n } :=
  { h with wait := rfl }

/-- The beats received may be set to the same list in both. -/
theorem SameToHost.withRx (h : SameToHost s s') (ws : List Word) :
    SameToHost { s with rx := ws } { s' with rx := ws } :=
  { h with rx := rfl }

/-- The same response may be put on offer in both. -/
theorem SameToHost.withTx (h : SameToHost s s') (o : Option Sending) :
    SameToHost { s with tx := o } { s' with tx := o } :=
  { h with tx := rfl }

/-- The same transactions wait in both afterwards (R220). -/
theorem letIn_keepsSame (h : SameToHost s s') (rest : List Transaction) :
    SameToHost (letIn rest s) (letIn rest s') :=
  { h with inbox := rfl }

/-- The same response is given by both (R84). -/
theorem handOver_keepsSame (h : SameToHost s s') (r : Response) : SameToHost (handOver r s) (handOver r s') :=
  { h with tx := rfl, wait := rfl, outbox := congrArg (· ++ [r]) h.outbox }

/-- A reset makes every register the same (R210). -/
theorem resetEvent_keepsSame (h : SameToHost s s') (high : Bool) :
    SameToHost (resetEvent high s) (resetEvent high s') := by
  constructor
  case inbox => exact h.inbox
  case outbox => exact h.outbox
  all_goals simp

/-- A command is turned away with the same response and no write (R185). -/
theorem raise_keepsSame (h : SameToHost s s') (st : Status) : SameToHost (raise st s) (raise st s') :=
  h.withTx _

/-- INIT makes `H` and `VAR` the same, whatever they were (R130). -/
theorem initVariant_keepsSame (h : SameToHost s s') (v : Variant) (P : List Word) :
    SameToHost (initVariant v P s) (initVariant v P s') := by
  by_cases hP : P = []
  · subst hP
    rw [initVariant_nil, initVariant_nil]
    exact { h with
      initialized := rfl
      digest := fun _ => ⟨rfl, rfl⟩
      block := fun hp => ⟨rfl, (h.block hp).2⟩
      tx := rfl }
  · rw [initVariant_payload v s hP, initVariant_payload v s' hP]
    exact h.withTx _

/-- READ_DIGEST reads `H` and `VAR` only after INIT, where they are the same (R150, R182). -/
theorem readDigest_keepsSame (h : SameToHost s s') (P : List Word) :
    SameToHost (readDigest P s) (readDigest P s') := by
  cases hI : s.INITIALIZED with
  | false =>
    rw [readDigest_uninit P s hI, readDigest_uninit P s' (h.initialized ▸ hI)]
    exact h.withTx _
  | true =>
    have hI' : s'.INITIALIZED = true := h.initialized ▸ hI
    by_cases hP : P = []
    · subst hP
      have hr : digestResponse s.VAR s.H = digestResponse s'.VAR s'.H := by
        obtain ⟨hH, hV⟩ := h.digest hI
        rw [hH, hV]
      rw [readDigest_ok s hI, readDigest_ok s' hI', hr]
      exact h.withTx _
    · rw [readDigest_payload s hI hP, readDigest_payload s' hI' hP]
      exact h.withTx _

/-- A round of a running block reads `W` and `a..h`, which are the same while it runs (R145). -/
theorem doRound_keepsSame (h : SameToHost s s') (i : Fin 80) : SameToHost (doRound i s) (doRound i s') :=
  { h with
    block := fun hp => by
      obtain ⟨hH, hW, hr, -⟩ := h.block hp
      simp [hH, hW, hr] }

/-- So do any number of rounds: both blocks are at the same round. -/
theorem roundLoop_keepsSame (h : SameToHost s s') (hp : s.PHASE = .busy) (n : Nat) :
    SameToHost (roundLoop n s) (roundLoop n s') := by
  induction n generalizing s s' with
  | zero => exact h
  | succ n ih =>
    obtain ⟨-, -, -, hR⟩ := h.block hp
    by_cases hs : s.RND.val < 80
    · rw [roundLoop_succ n s hs, roundLoop_succ n s' (hR ▸ hs)]
      simp only [← hR]
      exact ih (doRound_keepsSame h _) hp
    · rwa [roundLoop_done _ s hs, roundLoop_done _ s' (hR ▸ hs)]

/-- The start of a block on an initialised engine loads the window and the registers from the same words (R140). -/
theorem beginBlock_keepsSame (h : SameToHost s s') (hI : s.INITIALIZED = true) (B : Block) :
    SameToHost (beginBlock B s) (beginBlock B s') :=
  { h with
    phase := rfl
    block := fun _ => by simp [(h.digest hI).1] }

/-- The end of a running block adds the same registers to the same digest (R148). -/
theorem finishBlock_keepsSame (h : SameToHost s s') (hp : s.PHASE = .busy) :
    SameToHost (finishBlock s) (finishBlock s') := by
  obtain ⟨hH, -, hr, -⟩ := h.block hp
  exact { h with
    phase := rfl
    digest := fun hI => ⟨by simp [hH, hr], (h.digest hI).2⟩
    block := by simp
    tx := rfl }

/-- All the rounds that remain of a running block, and its end. -/
theorem finishRounds_keepsSame (h : SameToHost s s') (hp : s.PHASE = .busy) (n : Nat) :
    SameToHost (finishBlock (roundLoop n s)) (finishBlock (roundLoop n s')) :=
  finishBlock_keepsSame (roundLoop_keepsSame h hp n) ((roundLoop_frame n s).PHASE.trans hp)

/-- The checks of PROCESS_BLOCK look at `INITIALIZED` alone (R186). -/
theorem SameToHost.checkBlock_eq (h : SameToHost s s') (P : List Word) : checkBlock P s = checkBlock P s' := by
  simp only [checkBlock, h.initialized]

/-- PROCESS_BLOCK is turned away by both, or runs the same block on the same digest (R140). -/
theorem processBlock_keepsSame (h : SameToHost s s') (P : List Word) :
    SameToHost (processBlock P s) (processBlock P s') := by
  cases hc : checkBlock P s with
  | error st =>
    have hc' := (h.checkBlock_eq P).symm.trans hc
    simp only [processBlock, hc, hc']
    exact raise_keepsSame h st
  | ok B =>
    obtain ⟨hI, rfl⟩ := checkBlock_eq_ok hc
    rw [processBlock_ok B s hI, processBlock_ok B s' (h.initialized ▸ hI)]
    exact finishRounds_keepsSame (beginBlock_keepsSame h hI B) rfl 80

/-! ### A step -/

/-- Every command answers next states the host cannot tell apart. -/
theorem exec_keepsSame (h : SameToHost s s') (i : Instr) :
    ∃ t t', exec i s = .next t ∧ exec i s' = .next t' ∧ SameToHost t t' := by
  cases i with
  | init v P => exact ⟨_, _, rfl, rfl, initVariant_keepsSame h v P⟩
  | processBlock P => exact ⟨_, _, rfl, rfl, processBlock_keepsSame h P⟩
  | readDigest P => exact ⟨_, _, rfl, rfl, readDigest_keepsSame h P⟩

/-- So does every transaction, legal or not (R77). -/
theorem runTransaction_keepsSame (h : SameToHost s s') (c : Transaction) :
    ∃ t t', runTransaction c s = .next t ∧ runTransaction c s' = .next t' ∧ SameToHost t t' := by
  unfold runTransaction
  cases decodeBeats c.beats with
  | error why => exact ⟨_, _, rfl, rfl, raise_keepsSame h .illegalCommand⟩
  | ok i => exact exec_keepsSame h i

/-- The sequencer is at the same round in both (R36). -/
theorem sequencerStep_keepsSame (h : SameToHost s s') (hp : s.PHASE = .busy) :
    SameToHost (sequencerStep s) (sequencerStep s') := by
  obtain ⟨-, -, -, hR⟩ := h.block hp
  by_cases hs : s.RND.val < 80
  · rw [sequencerStep_round hs, sequencerStep_round (hR ▸ hs)]
    exact roundLoop_keepsSame h hp 1
  · rw [sequencerStep_finish hs, sequencerStep_finish (hR ▸ hs)]
    exact finishBlock_keepsSame (h.withWait 0) hp

/-- A step answers next states the host cannot tell apart: the cases are those of `step`. -/
theorem step_keepsSame (h : SameToHost s s') :
    ∃ t t', step s = .next t ∧ step s' = .next t' ∧ SameToHost t t' := by
  cases hr : s.rstHeld with
  | true =>
    exact ⟨_, _, step_endReset s hr, step_endReset s' (h.rstHeld ▸ hr), resetEvent_keepsSame h false⟩
  | false =>
    have hr' : s'.rstHeld = false := h.rstHeld ▸ hr
    cases hp : s.PHASE with
    | busy =>
      exact ⟨_, _, step_busy s hr hp, step_busy s' hr' (h.phase ▸ hp), sequencerStep_keepsSame h hp⟩
    | idle =>
      have hp' : s'.PHASE = .idle := h.phase ▸ hp
      cases ht : s.tx with
      | some r =>
        exact ⟨_, _, step_handOver s r hr hp ht, step_handOver s' r hr' hp' (h.tx ▸ ht), handOver_keepsSame h r.rsp⟩
      | none =>
        have ht' : s'.tx = none := h.tx ▸ ht
        by_cases hw : s.rx ≠ [] ∨ s.inbox = []
        · exact ⟨_, _, step_await s hr hp ht hw, step_await s' hr' hp' ht' (h.rx ▸ h.inbox ▸ hw), h⟩
        · rw [not_or, not_ne_iff] at hw
          obtain ⟨hx, hne⟩ := hw
          obtain ⟨c, rest, hi⟩ := List.exists_cons_of_ne_nil hne
          rw [step_take s c rest hr hp ht hx hi, step_take s' c rest hr' hp' ht' (h.rx ▸ hx) (h.inbox ▸ hi)]
          exact runTransaction_keepsSame (letIn_keepsSame h rest) c

/-! ### A clock edge -/

/-- The output signals are functions of what the host sees (R84). -/
theorem SameToHost.outputs_eq (h : SameToHost s s') (rst : Bool) : outputs rst s = outputs rst s' := by
  simp only [outputs, inReady, outBeat, h.rstHeld, h.phase, h.tx, h.wait]

/-- A command is begun in the same way: both are busy with the same block, or both have answered (R8). -/
theorem beginCommand_keepsSame (h : SameToHost s s') (BL cl : Nat) (i : Instr) :
    SameToHost (beginCommand BL cl i s) (beginCommand BL cl i s') := by
  cases i with
  | init v P => exact (initVariant_keepsSame h v P).withWait cl
  | readDigest P => exact (readDigest_keepsSame h P).withWait cl
  | processBlock P =>
    cases hc : checkBlock P s with
    | error st =>
      have hc' := (h.checkBlock_eq P).symm.trans hc
      simp only [beginCommand, hc, hc']
      exact (raise_keepsSame h st).withWait cl
    | ok B =>
      obtain ⟨hI, rfl⟩ := checkBlock_eq_ok hc
      rw [beginCommand_block BL cl B s hI, beginCommand_block BL cl B s' (h.initialized ▸ hI)]
      exact (beginBlock_keepsSame h hI B).withWait BL

/-- So is a transaction, legal or not (R78). -/
theorem beginTransaction_keepsSame (h : SameToHost s s') (BL cl : Nat) (beats : List Word) :
    SameToHost (beginTransaction BL cl beats s) (beginTransaction BL cl beats s') := by
  unfold beginTransaction
  cases decodeBeats beats with
  | error why => exact (raise_keepsSame h .illegalCommand).withWait cl
  | ok i => exact beginCommand_keepsSame h BL cl i

/-- A beat joins the same beats received, and ends the same transaction if it is the last (R84). -/
theorem takeBeat_keepsSame (h : SameToHost s s') (BL : Nat) (CL : Nat → List Word → Nat) (b : Beat) :
    SameToHost (takeBeat BL CL b s) (takeBeat BL CL b s') := by
  simp only [takeBeat, ← h.rx, ← congrArg List.length h.outbox]
  split
  next => exact beginTransaction_keepsSame (h.withRx []) _ _ _
  next => exact h.withRx _

/-- The host takes the same beat from both (R84). -/
theorem giveBeat_keepsSame (h : SameToHost s s') (r : Sending) : SameToHost (giveBeat r s) (giveBeat r s') := by
  unfold giveBeat
  split
  next => exact h.withTx _
  next => exact handOver_keepsSame h r.rsp

/-- The busy phases of both end in the same cycle (log entry 9). -/
theorem busyEdge_keepsSame (h : SameToHost s s') (hp : s.PHASE = .busy) :
    SameToHost (busyEdge s) (busyEdge s') := by
  by_cases hw : s.wait ≤ 1
  · rw [busyEdge_finish s hw, busyEdge_finish s' (h.wait ▸ hw)]
    exact (finishRounds_keepsSame h hp 80).withWait 0
  · rw [not_le] at hw
    rw [busyEdge_round s hw, busyEdge_round s' (h.wait ▸ hw), ← h.wait]
    exact (roundLoop_keepsSame h hp 1).withWait _

/-- An edge leaves states the host cannot tell apart: the cases are those of `edge`. -/
theorem edge_keepsSame (h : SameToHost s s') (BL : Nat) (CL : Nat → List Word → Nat) (i : PortIn) :
    SameToHost (edge BL CL i s) (edge BL CL i s') := by
  cases hi : i.rst with
  | true => rw [edge_reset hi, edge_reset hi]; exact resetEvent_keepsSame h true
  | false =>
    cases hr : s.rstHeld with
    | true => rw [edge_endReset hi hr, edge_endReset hi (h.rstHeld ▸ hr)]; exact resetEvent_keepsSame h false
    | false =>
      have hr' : s'.rstHeld = false := h.rstHeld ▸ hr
      cases hp : s.PHASE with
      | busy => rw [edge_busy hi hr hp, edge_busy hi hr' (h.phase ▸ hp)]; exact busyEdge_keepsSame h hp
      | idle =>
        have hp' : s'.PHASE = .idle := h.phase ▸ hp
        cases ht : s.tx with
        | some r =>
          have ht' : s'.tx = some r := h.tx ▸ ht
          by_cases hw : s.wait = 0
          · have hw' : s'.wait = 0 := h.wait ▸ hw
            cases ho : i.out_ready with
            | true =>
              rw [edge_give hi hr hp ht hw ho, edge_give hi hr' hp' ht' hw' ho]
              exact giveBeat_keepsSame h r
            | false => rwa [edge_hold hi hr hp ht hw ho, edge_hold hi hr' hp' ht' hw' ho]
          · rw [edge_latency hi hr hp ht hw, edge_latency hi hr' hp' ht' (h.wait ▸ hw), ← h.wait]
            exact h.withWait _
        | none =>
          have ht' : s'.tx = none := h.tx ▸ ht
          cases hv : i.in_valid with
          | true =>
            rw [edge_take hi hr hp ht hv, edge_take hi hr' hp' ht' hv]
            exact takeBeat_keepsSame h BL CL _
          | false => rwa [edge_await hi hr hp ht hv, edge_await hi hr' hp' ht' hv]

end

/-- Settles O38: it holds, by induction on the length of the run. -/
theorem hiddenStateNeverShows : Obligations.HiddenStateNeverShows := by
  intro n
  induction n with
  | zero =>
    intro s s' t h ht
    cases ht
    exact ⟨s', rfl, h, h.outbox⟩
  | succ n ih =>
    intro s s' t h ht
    obtain ⟨u, u', hu, hu', hs⟩ := step_keepsSame h
    rw [run_succ n s u hu] at ht
    rw [run_succ n s' u' hu']
    exact ih u u' t hs ht

/-- Settles O44: it holds, by induction on the inputs; the outputs at an edge are functions of what the host sees. -/
theorem hiddenStateNeverShowsAtTheSignals : Obligations.HiddenStateNeverShowsAtTheSignals := by
  intro BL CL ins
  induction ins with
  | nil => exact fun s s' h => ⟨rfl, h⟩
  | cons i is ih =>
    intro s s' h
    obtain ⟨hout, hend⟩ := ih _ _ (edge_keepsSame h BL CL i)
    exact ⟨congrArg₂ List.cons (h.outputs_eq i.rst) hout, hend⟩

end Sys2Proof.Machine
end

section
/-! What writes `H`, `VAR` and `INITIALIZED` outside reset (O21). -/

namespace Sys2Proof.Machine

/-- The step from `s` to `t` took an INIT with no payload, and left what it writes (R130). -/
def TookInit (s t : State) : Prop :=
  ∃ (v : Variant) (c : Transaction),
    s.Takes c t ∧ decodeBeats c.beats = .ok (.init v []) ∧ t.VAR = v ∧ t.INITIALIZED = true ∧ t.H = IV v

/-- The step from `s` to `t` took a block on an initialised engine, and left `H` compressed with it (R149). -/
def TookBlock (s t : State) : Prop :=
  ∃ (B : Block) (c : Transaction),
    s.Takes c t ∧ decodeBeats c.beats = .ok (.processBlock B.toList) ∧ s.INITIALIZED = true ∧ t.H = compress s.H B

/-- The step from `s` to `t` was the fold of a running block (R148). -/
def FoldedBlock (s t : State) : Prop := s.PHASE = .busy ∧ s.RND = 80 ∧ t.H = addRegisters s.H s.regs

/-- An action of the sequencer is a round, which writes none of the three, or the fold, which writes `H`. -/
theorem sequencerStep_writes {s : State} (hp : s.PHASE = .busy) :
    (sequencerStep s).VAR = s.VAR ∧ (sequencerStep s).INITIALIZED = s.INITIALIZED ∧
      ((sequencerStep s).H = s.H ∨ FoldedBlock s (sequencerStep s)) := by
  by_cases hR : s.RND.val < 80
  · rw [sequencerStep_round hR]
    have f := roundLoop_frame 1 s
    exact ⟨f.VAR, f.INITIALIZED, .inl f.H⟩
  · rw [sequencerStep_finish hR]
    have h80 : s.RND = 80 := Fin.ext (Nat.le_antisymm (Nat.le_of_lt_succ s.RND.isLt) (Nat.le_of_not_lt hR))
    exact ⟨rfl, rfl, .inr ⟨hp, h80, rfl⟩⟩

/-- A command taken is an INIT, or writes `H` as an accepted block, or writes none of the three. -/
theorem exec_writes {s t : State} {c : Transaction} {rest : List Transaction} {i : Instr} (hc : s.Takes c t)
    (hd : decodeBeats c.beats = .ok i) (h : exec i (letIn rest s) = .next t) :
    TookInit s t ∨ (t.VAR = s.VAR ∧ t.INITIALIZED = s.INITIALIZED ∧ (t.H = s.H ∨ TookBlock s t)) := by
  rcases exec_cases h with ⟨st, -, rfl⟩ | ⟨v, rfl, rfl⟩ | ⟨-, -, rfl⟩ | ⟨B, rfl, hI, rfl⟩
  · exact .inr ⟨rfl, rfl, .inl rfl⟩
  · exact .inl ⟨v, c, hc, hd, rfl, rfl, rfl⟩
  · exact .inr ⟨rfl, rfl, .inl rfl⟩
  · have hH := (blockEnd_H 80 B (letIn rest s)).trans (compress_eq s.H B).symm
    obtain ⟨hV, hI', -⟩ := blockEnd_frame 80 B (letIn rest s)
    exact .inr ⟨hV, hI', .inr ⟨B, c, hc, hd, hI, hH⟩⟩

/-- A step outside reset took an INIT, or leaves `VAR` and `INITIALIZED` and writes `H` at most as a block does. -/
theorem step_writes {s t : State} (hs : step s = .next t) (hr : s.rstHeld = false) :
    TookInit s t ∨
      (t.VAR = s.VAR ∧ t.INITIALIZED = s.INITIALIZED ∧ (t.H = s.H ∨ TookBlock s t ∨ FoldedBlock s t)) := by
  rcases step_cases hs with ⟨hr', -⟩ | ⟨-, hp, rfl⟩ | ⟨-, -, r, -, rfl⟩ | ⟨-, -, -, -, rfl⟩ |
    ⟨-, hp, ht, hx, c, rest, hi, ⟨why, -, rfl⟩ | ⟨i, hd, he⟩⟩
  · simp [hr] at hr'
  · obtain ⟨hV, hI, hH⟩ := sequencerStep_writes hp
    exact .inr ⟨hV, hI, hH.imp_right .inr⟩
  · exact .inr ⟨rfl, rfl, .inl rfl⟩
  · exact .inr ⟨rfl, rfl, .inl rfl⟩
  · exact .inr ⟨rfl, rfl, .inl rfl⟩
  · have hc : s.Takes c t := ⟨hr, hp, ht, hx, by rw [exec_inbox he, hi, letIn_inbox]⟩
    exact (exec_writes hc hd he).imp_right fun ⟨hV, hI, hH⟩ => ⟨hV, hI, hH.imp_right .inl⟩

/-- Settles O21: it holds; what a step writes of the three is `step_writes`. -/
theorem writersOfDigestVariantAndFlag : Obligations.WritersOfDigestVariantAndFlag := by
  intro s t hs hr
  rcases step_writes hs hr with hInit | ⟨hV, hI, hH⟩
  · exact ⟨fun _ => hInit, fun _ => .inl hInit⟩
  · constructor
    · rintro (hne | hne)
      · exact absurd hV hne
      · exact absurd hI hne
    · exact fun hne => .inr (hH.resolve_left hne)

end Sys2Proof.Machine
end

section
/-! The rounds of a block as a run (O25). -/

namespace Sys2Proof.Machine

/-- Before the end of a block, `n` steps of a BUSY engine are `n` turns of the round loop. -/
theorem run_rounds (n : Nat) (s : State) (hr : s.rstHeld = false) (hp : s.PHASE = .busy) (hn : s.RND.val + n ≤ 80) :
    run n s = .next (roundLoop n s) := by
  induction n generalizing s with
  | zero => rfl
  | succ n ih =>
    have hs : s.RND.val < 80 := by omega
    have hstep : step s = .next (roundLoop 1 s) := by rw [step_busy s hr hp, sequencerStep_round hs]
    have hR : (roundLoop 1 s).RND.val = s.RND.val + 1 := roundLoop_RND 1 s hs
    have f := roundLoop_frame 1 s
    rw [run_succ n s _ hstep, ih _ (f.rstHeld.trans hr) (f.PHASE.trans hp) (by omega), ← roundLoop_add, Nat.add_comm 1]

/-- Settles O25: it holds; the run is the round loop (`run_rounds`), whose index, window and frame are known. -/
theorem roundsRunInOrder : Obligations.RoundsRunInOrder := by
  intro B s n hn hr
  have h80 : (beginBlock B s).RND.val + n ≤ 80 := by simpa using hn
  have f := roundLoop_frame n (beginBlock B s)
  have hR := roundLoop_RND n (beginBlock B s) h80
  have hW := roundLoop_W n (beginBlock B s) B h80 rfl
  simp only [beginBlock_RND, Fin.val_zero, Nat.zero_add] at hR hW
  refine ⟨_, run_rounds n (beginBlock B s) hr rfl h80, hR, f.PHASE, hW, ?_, f.H, f.VAR, f.INITIALIZED, f.tx, f.outbox⟩
  rintro rfl
  exact ⟨rfl, rfl⟩

end Sys2Proof.Machine
end

section
/-! The engines of a platform (O45). -/

namespace Sys2Proof.Machine

/-- A step at place k of a platform puts the next state there, and nothing else changes (R59). -/
theorem stepAt_eq_next {n : Nat} {k : Fin n} {p q : Platform n} :
    p.stepAt k = .next q ↔ ∃ t, step p[k] = .next t ∧ q = p.set k t := by
  unfold Platform.stepAt
  cases step p[k] with
  | next t => simp [eq_comm]
  | fault r => simp
  | refused r => simp

/-- Settles O45: it holds; a step writes one place of the vector, and writes of two places commute. -/
theorem instancesAreIndependent : Obligations.InstancesAreIndependent := by
  intro n p j k hjk
  have hne : j.val ≠ k.val := fun h => hjk (Fin.ext h)
  constructor
  · intro q hq
    obtain ⟨t, ht, rfl⟩ := stepAt_eq_next.1 hq
    simpa [hne] using ht
  · intro q r hq hr
    obtain ⟨t, ht, rfl⟩ := stepAt_eq_next.1 hq
    obtain ⟨u, hu, rfl⟩ := stepAt_eq_next.1 hr
    have hu' : step p[k] = .next u := by simpa [hne] using hu
    have ht' : step (p.set k u)[j] = .next t := by simpa [hne.symm] using ht
    exact ⟨p.set k u, stepAt_eq_next.2 ⟨u, hu', rfl⟩,
      stepAt_eq_next.2 ⟨t, ht', Vector.set_comm _ _ hne⟩⟩

end Sys2Proof.Machine
end

section
/-! The initial values and the round constants (O11, O12, O13). The primes are found by trial division with the primes below
21, which is enough below 21 * 21; the rest is evaluation. -/

namespace Sys2Proof.Machine

/-- The primes below 21. -/
def trialPrimes : List Nat := [2, 3, 5, 7, 11, 13, 17, 19]

/-- `p` is at least 2, and no prime below 21 divides it but `p` itself. -/
def passesTrial (p : Nat) : Bool := decide (2 ≤ p ∧ ∀ d ∈ trialPrimes, d ∣ p → d = p)

theorem mem_trialPrimes : ∀ q < 21, q.Prime → q ∈ trialPrimes := by decide +kernel

/-- Below 21 * 21 the trial finds the primes: the least factor of a composite number is below 21. -/
theorem passesTrial_iff_prime {p : Nat} (hp : p < 21 * 21) : passesTrial p = true ↔ p.Prime := by
  rw [passesTrial, decide_eq_true_iff]
  constructor
  · rintro ⟨h2, hd⟩
    by_contra hn
    have hq : p.minFac.Prime := Nat.minFac_prime (by omega)
    have hlt : p.minFac < 21 := by
      have := Nat.minFac_sq_le_self (by omega) hn
      exact Nat.mul_self_lt_mul_self_iff.1 (by rw [← sq]; omega)
    exact hn (hd _ (mem_trialPrimes _ hlt hq) p.minFac_dvd ▸ hq)
  · refine fun h => ⟨h.two_le, fun d hd hdvd => (h.eq_one_or_self_of_dvd d hdvd).resolve_left ?_⟩
    rintro rfl
    revert hd
    decide

/-- The primes below `n`, found by the trial. -/
theorem primesBelow_eq_trial {n : Nat} (hn : n ≤ 21 * 21) : primesBelow n = (List.range n).filter passesTrial := by
  refine List.filter_congr fun p hp => Bool.eq_iff_iff.2 ?_
  have hlt : p < n := List.mem_range.1 hp
  rw [passesTrial_iff_prime (by omega), decide_eq_true_iff]
  exact Nat.prime_def_lt.symm

/-- Settles O11: it holds; the two bounds of each cube are evaluated. -/
theorem roundConstantsAreCubeRootFractions : Obligations.RoundConstantsAreCubeRootFractions := by
  unfold Obligations.RoundConstantsAreCubeRootFractions
  rw [primesBelow_eq_trial (by decide)]
  constructor
  · decide +kernel
  · decide +kernel

/-- Settles O12: it holds; the two bounds of each square are evaluated. -/
theorem initialValuesAreSquareRootFractions : Obligations.InitialValuesAreSquareRootFractions := by
  unfold Obligations.InitialValuesAreSquareRootFractions
  rw [primesBelow_eq_trial (by decide)]
  constructor
  · decide +kernel
  · decide +kernel

/-- The engine the generation starts in: `H` is the SHA-512 initial value with every byte XORed with 0xA5 (R32). -/
def generationStart : State :=
  { State.reset with INITIALIZED := true, H := (IV .sha512).map (· ^^^ 0xA5A5A5A5A5A5A5A5#64) }

/-- The padded block of a name of eleven bytes, in the two words `x` and `y` (R32). -/
def nameBlock (x y : Word) : Block := ⟨⟨[x, y] ++ List.replicate 13 0#64 ++ [0x58#64]⟩, rfl⟩

/-- "SHA-512/224" gives the column of its variant (R32). -/
theorem compress_name_sha512_224 :
    compress generationStart.H (nameBlock 0x5348412D3531322F#64 0x3232348000000000#64) = IV .sha512_224 := by
  decide +kernel

/-- "SHA-512/256" gives the column of its variant (R32). -/
theorem compress_name_sha512_256 :
    compress generationStart.H (nameBlock 0x5348412D3531322F#64 0x3235368000000000#64) = IV .sha512_256 := by
  decide +kernel

/-- The generation leaves what `compress` gives, PROCESS_BLOCK being `compress` (R149). -/
theorem generation_H {x y : Word} {v : Variant} (h : compress generationStart.H (nameBlock x y) = IV v) :
    ∃ t, exec (.processBlock (nameBlock x y).toList) generationStart = .next t ∧ t.H = IV v := by
  refine ⟨_, congrArg Host.Outcome.next (processBlock_ok (nameBlock x y) generationStart rfl), ?_⟩
  rw [blockEnd_H, ← compress_eq, h]

/-- Settles O13: it holds, by the compressions of the two names. -/
theorem truncatedVariantsAreGenerated : Obligations.TruncatedVariantsAreGenerated :=
  List.forall_mem_cons.2
    ⟨generation_H compress_name_sha512_224, List.forall_mem_singleton.2 (generation_H compress_name_sha512_256)⟩

end Sys2Proof.Machine
end

section
/-! What the step of a ready engine runs (O29), and what it comes to once the host has taken the response. -/

namespace Sys2Proof.Machine

/-- A ready engine takes the oldest waiting transaction (R84). -/
theorem step_of_ready {s : State} (h : s.Ready) {c : Transaction} {rest : List Transaction}
    (hi : s.inbox = c :: rest) : step s = runTransaction c (letIn rest s) :=
  step_take s c rest h.outOfReset h.idle h.nothingSent h.nothingReceived hi

/-- A transaction that decodes to a command is that command's execution (R77). -/
theorem runTransaction_ok {c : Transaction} {i : Instr} (hd : decodeBeats c.beats = .ok i) (s : State) :
    runTransaction c s = exec i s := by
  simp [runTransaction, hd]

/-- A transaction that decodes to no command is turned away (R183). -/
theorem runTransaction_error {c : Transaction} {why : Reject} (hd : decodeBeats c.beats = .error why) (s : State) :
    runTransaction c s = .next (raise .illegalCommand s) := by
  simp [runTransaction, hd]

/-- Settles O29: it holds; the step takes the transaction, and what it runs is what the transaction decodes to. -/
theorem stepRunsTheDecodedCommand : Obligations.StepRunsTheDecodedCommand := by
  intro s c rest h hi
  constructor
  · intro i hd
    rw [step_of_ready h hi, runTransaction_ok hd, letIn]
  · intro why hd
    rw [step_of_ready h hi, runTransaction_error hd, raise_eq, letIn]

/-- Two steps of a ready engine for a waiting command: it is executed, and the host takes its response (R80). -/
theorem run_command_of_ready {s t : State} (h : s.Ready) {c : Transaction} {rest : List Transaction} {i : Instr}
    {r : Response} (hi : s.inbox = c :: rest) (hd : decodeBeats c.beats = .ok i)
    (he : exec i (letIn rest s) = .next t) (ht : t.tx = offered r) : run 2 s = .next (handOver r t) := by
  have a : Answered (letIn rest s) t := exec_answered h.idle he
  have hexec : step s = .next t := by rw [step_of_ready h hi, runTransaction_ok hd, he]
  have hgive : step t = .next (handOver r t) := step_handOver t _ (a.rstHeld.trans h.outOfReset) a.idle ht
  rw [run_succ 1 s t hexec, run_succ 0 t _ hgive, run_zero]

end Sys2Proof.Machine
end

section
/-! Runs put together. -/

namespace Sys2Proof.Machine

/-- Every action is done and answers a next state (R187). -/
theorem perform_next (act : Action) (s : State) : ∃ t, perform act s = .next t := by
  cases act with
  | endReset => exact ⟨_, rfl⟩
  | sequence => exact ⟨_, rfl⟩
  | handOver r => exact ⟨_, rfl⟩
  | await => exact ⟨_, rfl⟩
  | take c rest =>
    rw [perform]
    cases hd : decodeBeats c.beats with
    | error why => exact ⟨_, runTransaction_error hd _⟩
    | ok i => rw [runTransaction_ok hd]; exact exec_next i _

/-- Every step answers a next state (R187). -/
theorem step_next (s : State) : ∃ t, step s = .next t := perform_next (nextAction s) s

/-- A run of `m + n` steps is one of `m` and then one of `n`. -/
theorem run_add {m : Nat} (n : Nat) {s t : State} (h : run m s = .next t) : run (m + n) s = run n t := by
  induction m generalizing s with
  | zero => cases h; rw [Nat.zero_add]
  | succ m ih =>
    obtain ⟨u, hu⟩ := step_next s
    rw [run_succ m s u hu] at h
    rw [Nat.succ_add, run_succ _ s u hu, ih h]

end Sys2Proof.Machine
end

section
/-! Commands that may be repeated (O22): a READ_DIGEST writes no register, and an INIT writes what the same INIT wrote. -/

namespace Sys2Proof.Machine

/-- The response to a READ_DIGEST with no payload: the digest once there is one (R150), else E_NOT_INITIALIZED (R182). -/
def readResponse (s : State) : Response :=
  if s.INITIALIZED = true then digestResponse s.VAR s.H else errorResponse .notInitialized

/-- READ_DIGEST with no payload offers its response and writes nothing else. -/
theorem readDigest_nil (s : State) : readDigest [] s = { s with tx := offered (readResponse s) } := by
  cases hI : s.INITIALIZED with
  | true => simp [readDigest_ok s hI, readResponse, hI]
  | false => simp [readDigest_uninit [] s hI, readResponse, hI]

/-- Being ready does not depend on the two ends of the run. -/
theorem State.Ready.withEnds {s : State} (h : s.Ready) (ts : List Transaction) (rs : List Response) :
    { s with inbox := ts, outbox := rs }.Ready :=
  ⟨h.outOfReset, h.idle, h.nothingSent, h.nothingReceived, h.noWait⟩

/-- A READ_DIGEST waiting at a ready engine, once its response is taken, has changed the two ends of the run alone (R56). -/
theorem run_read_of_ready {s : State} (h : s.Ready) {rest : List Transaction}
    (hi : s.inbox = readTransaction :: rest) :
    run 2 s = .next { s with inbox := rest, outbox := s.outbox ++ [readResponse s] } := by
  have he : exec (.readDigest []) (letIn rest s) = .next { letIn rest s with tx := offered (readResponse s) } :=
    congrArg Host.Outcome.next (readDigest_nil (letIn rest s))
  rw [run_command_of_ready h hi decode_readTransaction he rfl]
  simp [handOver, letIn, h.nothingSent, h.noWait]

/-- INIT leaves in `VAR`, `H` and `INITIALIZED` what an INIT of the same variant would write again (R130). -/
theorem initVariant_nil_idem (v : Variant) (s : State) :
    initVariant v [] (initVariant v [] s) = initVariant v [] s := by
  simp only [initVariant_nil]

/-- Settles O22: it holds; each READ_DIGEST changes the two ends of the run alone (`run_read_of_ready`), and the second INIT
writes what the first wrote (`initVariant_nil_idem`). -/
theorem readAndInitAreIdempotent : Obligations.ReadAndInitAreIdempotent := by
  constructor
  · intro s rest h hi
    have h1 := run_read_of_ready h hi
    have h2 := run_read_of_ready (h.withEnds (readTransaction :: rest) (s.outbox ++ [readResponse s])) rfl
    exact ⟨_, readResponse s, (run_add 2 h1).trans h2, ⟨rfl, rfl, rfl, rfl, rfl, rfl, rfl⟩, h.withEnds _ _, rfl,
      List.append_assoc _ _ _⟩
  · intro v s t ht
    cases ht
    exact congrArg Host.Outcome.next (initVariant_nil_idem v s)

end Sys2Proof.Machine
end

section
/-! A block a sequencer action at a time (O26). -/

namespace Sys2Proof.Machine

/-- After the last round the step ends the block; with no cycles left to count, that is all it does (R36). -/
theorem step_finish {s : State} (hr : s.rstHeld = false) (hp : s.PHASE = .busy) (hR : s.RND.val = 80) (hw : s.wait = 0) :
    step s = .next (finishBlock s) := by
  rw [step_busy s hr hp, sequencerStep_finish (by omega), ← hw]

/-- Settles O26: it holds; 80 steps are the round loop (`run_rounds`), and the next one ends the block (`step_finish`). -/
theorem roundByRoundEqualsAtomicCommand : Obligations.RoundByRoundEqualsAtomicCommand := by
  intro B s hI hr hw
  have f := roundLoop_frame 80 (beginBlock B s)
  have hR : (roundLoop 80 (beginBlock B s)).RND.val = 80 := by
    simpa using roundLoop_RND 80 (beginBlock B s) (by simp)
  have hrounds : run 80 (beginBlock B s) = .next (roundLoop 80 (beginBlock B s)) :=
    run_rounds 80 (beginBlock B s) hr rfl (by simp)
  have hfold := step_finish (f.rstHeld.trans hr) f.PHASE hR (f.wait.trans hw)
  rw [run_add 1 hrounds, run_succ 0 _ _ hfold, run_zero, ← processBlock_ok B s hI]
  rfl

end Sys2Proof.Machine
end

section
/-! Decoding and encoding (O1, O2, O5): a word decodes to a command exactly when it is the command's word, and the payload is
the command's as it stands. -/

namespace Sys2Proof

/-- A nonzero RSV field is rejected first (R74, R77). -/
theorem decode_rsvNonzero {CMD : Word} (P : List Word) (hr : rsvField CMD ≠ 0#58) :
    decode CMD P = .error .rsvNonzero := by
  simp [decode, hr]

/-- A nonzero VAR field under PROCESS_BLOCK or READ_DIGEST (R74). -/
theorem decode_varNonzero {CMD : Word} (P : List Word) (hr : rsvField CMD = 0#58)
    (ho : opField CMD = 0x2#4 ∨ opField CMD = 0x3#4) (hv : varField CMD ≠ 0#2) :
    decode CMD P = .error .varNonzero := by
  rcases ho with ho | ho <;> simp [decode, hr, ho, hv]

/-- An opcode of no command (R85). -/
theorem decode_reservedOp {CMD : Word} (P : List Word) (hr : rsvField CMD = 0#58) (h1 : opField CMD ≠ 0x1#4)
    (h2 : opField CMD ≠ 0x2#4) (h3 : opField CMD ≠ 0x3#4) : decode CMD P = .error .reservedOp := by
  simp [decode, hr, h1, h2, h3]

/-- The word of a command, with the command's payload, decodes to it. -/
theorem decode_encodeWord (i : Instr) : decode (encodeWord i) i.payload = .ok i := by
  cases i <;> simp [decode, encodeWord, Instr.payload]

/-- A word with the three fields of a command word is that word: its RSV field is zero. -/
theorem commandWord_eq {CMD : Word} {v : BitVec 2} {o : BitVec 4} (hr : rsvField CMD = 0#58) (hv : varField CMD = v)
    (ho : opField CMD = o) : commandWord v o = CMD :=
  word_eq_of_fields (by rw [rsvField_commandWord, hr]) (by rw [varField_commandWord, hv])
    (by rw [opField_commandWord, ho])

/-- A word with a zero RSV field and the opcode of INIT is the word of some INIT: every VAR field codes a variant (R73). -/
theorem encodeWord_init_ofCode {CMD : Word} (P : List Word) (hr : rsvField CMD = 0#58) (ho : opField CMD = 0x1#4) :
    encodeWord (.init (Variant.ofCode (varField CMD)) P) = CMD :=
  commandWord_eq hr (Variant.code_ofCode _).symm ho

/-- What decodes to a command is the word of the command and its payload: the fields `decode` tests are the whole word. -/
theorem encodeWord_of_decode {CMD : Word} {P : List Word} {i : Instr} (h : decode CMD P = .ok i) :
    encodeWord i = CMD ∧ i.payload = P := by
  simp only [decode] at h
  split at h
  next => cases h
  next hr =>
    rw [not_ne_iff] at hr
    split at h
    next ho => cases h; exact ⟨encodeWord_init_ofCode P hr ho, rfl⟩
    next =>
      split at h
      next ho =>
        split at h
        next hv => cases h; exact ⟨commandWord_eq hr hv ho, rfl⟩
        next => cases h
      next =>
        split at h
        next ho =>
          split at h
          next hv => cases h; exact ⟨commandWord_eq hr hv ho, rfl⟩
          next => cases h
        next => cases h

/-- Settles O1: it holds, for the word and the payload of each command. -/
theorem decodeOfEncodeIsTheCommand : Obligations.DecodeOfEncodeIsTheCommand := decode_encodeWord

/-- Settles O2: it holds; the decoder tests every field of the word. -/
theorem encodeOfDecodeIsTheTransaction : Obligations.EncodeOfDecodeIsTheTransaction := by
  intro t i h
  obtain ⟨hw, hP⟩ := encodeWord_of_decode h
  rw [encode, Transaction.beats, hw, hP]

/-- Settles O5: it holds; the legal words are the words of the six commands, and each of the others has the fields of its
cause. -/
theorem writtenWordsDecode : Obligations.WrittenWordsDecode := fun P =>
  ⟨decode_encodeWord (.init .sha512 P), decode_encodeWord (.init .sha384 P), decode_encodeWord (.init .sha512_224 P),
    decode_encodeWord (.init .sha512_256 P), decode_encodeWord (.processBlock P), decode_encodeWord (.readDigest P),
    decode_reservedOp P (by decide) (by decide) (by decide) (by decide),
    decode_reservedOp P (by decide) (by decide) (by decide) (by decide),
    decode_reservedOp P (by decide) (by decide) (by decide) (by decide),
    decode_varNonzero P (by decide) (by decide) (by decide), decode_varNonzero P (by decide) (by decide) (by decide),
    decode_rsvNonzero P (by decide), decode_rsvNonzero P (by decide), decode_rsvNonzero P (by decide)⟩

end Sys2Proof
end

section
/-! The opcode map (O3): a row matches the words of its commands alone, and no two rows have one mnemonic. -/

namespace Sys2Proof

/-- The rows of the map are told apart by their mnemonics (R86). -/
theorem opcodeRow_eq_of_mnemonic :
    ∀ row ∈ opcodeMap, ∀ row' ∈ opcodeMap, row.mnemonic = row'.mnemonic → row = row' := by decide

/-- The word of a command matches the row of its mnemonic (R86). -/
theorem encodeWord_matches_row (i : Instr) :
    ∃ row ∈ opcodeMap, row.mnemonic = i.mnemonic ∧ row.matches (encodeWord i) = true := by
  cases i with
  | init v P => exact (Laws.TransactionForm.init v P).1
  | processBlock P => exact (Laws.TransactionForm.processBlock P).1
  | readDigest P => exact (Laws.TransactionForm.readDigest P).1

/-- A word that matches a row is the word of a command of the row, with any payload (R86). -/
theorem encodeWord_of_matches {CMD : Word} {row : OpcodeRow} (P : List Word) (hrow : row ∈ opcodeMap)
    (h : row.matches CMD = true) : ∃ i : Instr, encodeWord i = CMD ∧ i.payload = P ∧ i.mnemonic = row.mnemonic := by
  simp only [opcodeMap, List.mem_cons, List.not_mem_nil, or_false] at hrow
  rcases hrow with rfl | rfl | rfl
  · obtain ⟨hr, ho⟩ := (initRow_matches CMD).1 (eq_of_beq h)
    exact ⟨_, encodeWord_init_ofCode P hr ho, rfl, rfl⟩
  · exact ⟨.processBlock P, (eq_of_beq h).symm.trans BitVec.and_allOnes, rfl, rfl⟩
  · exact ⟨.readDigest P, (eq_of_beq h).symm.trans BitVec.and_allOnes, rfl, rfl⟩

/-- A row matches a word exactly when the word decodes to a command of the row, whatever the payload (R86). -/
theorem matches_iff_decode {row : OpcodeRow} (CMD : Word) (P : List Word) (hrow : row ∈ opcodeMap) :
    row.matches CMD = true ↔ ∃ i, decode CMD P = .ok i ∧ i.mnemonic = row.mnemonic := by
  constructor
  · intro h
    obtain ⟨i, rfl, rfl, hm⟩ := encodeWord_of_matches P hrow h
    exact ⟨i, decode_encodeWord i, hm⟩
  · rintro ⟨i, hd, hm⟩
    obtain ⟨row', hrow', hm', hmatch⟩ := encodeWord_matches_row i
    rw [(encodeWord_of_decode hd).1] at hmatch
    rwa [opcodeRow_eq_of_mnemonic row hrow row' hrow' (hm.symm.trans hm'.symm)]

/-- Settles O3: it holds; matching a row is decoding to its commands (`matches_iff_decode`), and a word decodes to one command
at most. -/
theorem opcodeMapDecidesDecoding : Obligations.OpcodeMapDecidesDecoding := by
  refine ⟨fun CMD P row hrow => matches_iff_decode CMD P hrow, ?unambiguous, ?illegal, ?initWords⟩
  case unambiguous =>
    intro CMD row row' hrow hrow' h h'
    obtain ⟨i, hd, hm⟩ := (matches_iff_decode CMD [] hrow).1 h
    obtain ⟨i', hd', hm'⟩ := (matches_iff_decode CMD [] hrow').1 h'
    cases hd.symm.trans hd'
    exact opcodeRow_eq_of_mnemonic row hrow row' hrow' (hm.symm.trans hm')
  case illegal =>
    intro CMD P hno
    cases hd : decode CMD P with
    | error why => exact ⟨why, rfl⟩
    | ok i =>
      obtain ⟨row, hrow, -, hmatch⟩ := encodeWord_matches_row i
      rw [(encodeWord_of_decode hd).1, hno row hrow] at hmatch
      cases hmatch
  case initWords =>
    intro v P
    cases v <;> rfl

end Sys2Proof
end

section
/-! The reserved encodings (O4). -/

namespace Sys2Proof

/-- The reserved encodings of R74 and R85: a nonzero RSV field, a nonzero VAR field under an opcode other than INIT, or an opcode
of no command. -/
def ReservedWord (CMD : Word) : Prop :=
  rsvField CMD ≠ 0#58 ∨ (opField CMD ≠ 0x1#4 ∧ varField CMD ≠ 0#2) ∨
    (opField CMD ≠ 0x1#4 ∧ opField CMD ≠ 0x2#4 ∧ opField CMD ≠ 0x3#4)

/-- The word of a command is none of the reserved encodings. -/
theorem not_reservedWord_encodeWord (i : Instr) : ¬ ReservedWord (encodeWord i) := by
  cases i <;> simp [ReservedWord, encodeWord]

/-- The words the decoder rejects are the reserved encodings (R74, R85, R183). -/
theorem decode_error_iff (CMD : Word) (P : List Word) : (∃ why, decode CMD P = .error why) ↔ ReservedWord CMD := by
  constructor
  · rintro ⟨why, hd⟩
    by_contra hn
    simp only [ReservedWord, not_or, not_and, not_ne_iff] at hn
    obtain ⟨hr, hv, ho⟩ := hn
    by_cases h1 : opField CMD = 0x1#4
    · simp [decode, hr, h1] at hd
    · by_cases h2 : opField CMD = 0x2#4
      · simp [decode, hr, h2, hv h1] at hd
      · simp [decode, hr, ho h1 h2, hv h1] at hd
  · intro h
    cases hd : decode CMD P with
    | error why => exact ⟨why, rfl⟩
    | ok i =>
      rw [← (encodeWord_of_decode hd).1] at h
      exact absurd h (not_reservedWord_encodeWord i)

/-- Settles O4: it holds; the rejected words are `decode_error_iff`, and the step that takes one only answers it (O29). -/
theorem reservedEncodingsAreIllegal : Obligations.ReservedEncodingsAreIllegal := by
  refine ⟨decode_error_iff, fun s t rest h hi hres => ?_⟩
  obtain ⟨why, hd⟩ := (decode_error_iff t.CMD t.P).2 hres
  exact (Machine.stepRunsTheDecodedCommand s t rest h hi).2 why hd

end Sys2Proof
end

section
/-! The answers of an initialised engine (O20) and the fields of the responses (O35). -/

namespace Sys2Proof.Machine

/-- The header of a digest response has the STATUS code of OK (R82). -/
theorem statusField_digestHeader (v : Variant) : statusField (digestHeader v) = 0#4 := by cases v <;> decide

/-- INIT with an empty payload, executed (R130). -/
theorem exec_init_nil (v : Variant) (s : State) :
    exec (.init v []) s = .next { s with VAR := v, H := IV v, INITIALIZED := true, tx := offered okResponse } :=
  congrArg Host.Outcome.next (initVariant_nil v s)

/-- PROCESS_BLOCK with a block on an initialised engine, executed (R140). -/
theorem exec_block (B : Block) {s : State} (hI : s.INITIALIZED = true) :
    exec (.processBlock B.toList) s = .next (finishBlock (roundLoop 80 (beginBlock B s))) :=
  congrArg Host.Outcome.next (processBlock_ok B s hI)

/-- READ_DIGEST with an empty payload on an initialised engine, executed (R150). -/
theorem exec_read_nil {s : State} (hI : s.INITIALIZED = true) :
    exec (.readDigest []) s = .next { s with tx := offered (digestResponse s.VAR s.H) } :=
  congrArg Host.Outcome.next (readDigest_ok s hI)

/-- A command with the payload it requires, on an initialised engine, is answered OK (R75). -/
theorem exec_wellFormed {i : Instr} {s : State} (hI : s.INITIALIZED = true) (hw : i.wellFormed = true) :
    ∃ (t : State) (r : Response), exec i s = .next t ∧ t.tx = offered r ∧ statusField r.RSP = 0#4 := by
  cases i with
  | init v P =>
    obtain rfl : P = [] := by simpa [Instr.wellFormed] using hw
    exact ⟨_, okResponse, exec_init_nil v s, rfl, rfl⟩
  | processBlock P =>
    obtain ⟨B, rfl⟩ : ∃ B : Block, P = B.toList := ⟨⟨⟨P⟩, by simpa [Instr.wellFormed] using hw⟩, rfl⟩
    obtain ⟨-, -, -, ht, -⟩ := blockEnd_frame 80 B s
    exact ⟨_, okResponse, exec_block B hI, ht, rfl⟩
  | readDigest P =>
    obtain rfl : P = [] := by simpa [Instr.wellFormed] using hw
    exact ⟨_, digestResponse s.VAR s.H, exec_read_nil hI, rfl, statusField_digestHeader s.VAR⟩

/-- A command with another payload than it requires, on an initialised engine, is answered E_BAD_LENGTH (R181). -/
theorem exec_illFormed {i : Instr} {s : State} (hI : s.INITIALIZED = true) (hw : i.wellFormed = false) :
    exec i s = .next { s with tx := offered (errorResponse .badLength) } := by
  cases i with
  | init v P => exact congrArg Host.Outcome.next (initVariant_payload v s (by simpa [Instr.wellFormed] using hw))
  | processBlock P => exact congrArg Host.Outcome.next (processBlock_length s hI (by simpa [Instr.wellFormed] using hw))
  | readDigest P => exact congrArg Host.Outcome.next (readDigest_payload s hI (by simpa [Instr.wellFormed] using hw))

/-- Settles O20: it holds, for a well-formed command (`exec_wellFormed`) and for another (`exec_illFormed`). -/
theorem wellFormedCommandsAreAnsweredOk : Obligations.WellFormedCommandsAreAnsweredOk := by
  intro i s hI
  cases hw : i.wellFormed with
  | true =>
    obtain ⟨t, r, he, ht, hr⟩ := exec_wellFormed hI hw
    exact ⟨t, r, he, ht, fun _ => hr, nofun⟩
  | false => exact ⟨_, errorResponse .badLength, exec_illFormed hI hw, rfl, nofun, fun _ => rfl⟩

/-- The fields of the header words of R82, row by row of the table: what R81 says of them. -/
theorem responseTable_fields : ∀ row ∈ responseTable,
    (rlenField row.1).toNat = row.2 ∧ row.1.extractLsb' 32 32 = 0#32 ∧ row.1.extractLsb' 4 4 = 0#4 ∧
    (∃ st ∈ [Status.ok, .badLength, .notInitialized, .illegalCommand], statusField row.1 = st.code) ∧
    (statusField row.1 ≠ 0#4 → outbitsField row.1 = 0#16 ∧ row.2 = 0) ∧
    wordsFor (outbitsField row.1).toNat = row.2 := by decide

/-- Settles O35: it holds, by the rows of the table (`responseTable_fields`). -/
theorem headerFieldsOfEveryResponse : Obligations.HeaderFieldsOfEveryResponse := by
  intro r h
  obtain ⟨hlen, hhigh, hmid, ⟨st, -, hst⟩, herr, hwords⟩ := responseTable_fields _ h
  refine ⟨hlen, hhigh, hmid, ⟨st, hst⟩, fun hne => ?_, hwords⟩
  obtain ⟨hbits, hQ⟩ := herr hne
  exact ⟨hbits, List.length_eq_zero_iff.1 hQ⟩

end Sys2Proof.Machine
end

section
/-! One response a transaction (O36): every transaction a ready engine takes is answered, and with the response taken the
engine is ready for the next. The step between commands is O30. -/

namespace Sys2Proof.Machine

/-- Settles O30: it holds, by the two cases of a step that takes no command. -/
theorem stepBetweenCommands : Obligations.StepBetweenCommands := ⟨step_handOver, step_await⟩

/-- A transaction run by an IDLE engine is answered, legal or not (R80). -/
theorem runTransaction_answered (c : Transaction) {s : State} (hp : s.PHASE = .idle) :
    ∃ t, runTransaction c s = .next t ∧ Answered s t := by
  cases hd : decodeBeats c.beats with
  | error why => exact ⟨_, runTransaction_error hd s, raise_answered .illegalCommand s hp⟩
  | ok i =>
    obtain ⟨t, ht⟩ := exec_next i s
    exact ⟨t, (runTransaction_ok hd s).trans ht, exec_answered hp ht⟩

/-- Once the host has taken the response, the engine is ready again (R84). -/
theorem Answered.handOver_ready {s t : State} (a : Answered s t) (hr : s.rstHeld = false) (hx : s.rx = [])
    (r : Response) : (handOver r t).Ready :=
  ⟨a.rstHeld.trans hr, a.idle, rfl, a.rx.trans hx, rfl⟩

/-- Two steps of a ready engine for a waiting transaction, legal or not: it is taken, and the host takes its one response
(R80). -/
theorem run_transaction_of_ready {s : State} (h : s.Ready) {c : Transaction} {rest : List Transaction}
    (hi : s.inbox = c :: rest) :
    ∃ (u : State) (r : Response), run 2 s = .next u ∧ u.Ready ∧ u.inbox = rest ∧ u.outbox = s.outbox ++ [r] ∧
      r.Listed := by
  obtain ⟨t, hrun, a⟩ := runTransaction_answered c (s := letIn rest s) h.idle
  obtain ⟨r, hl, ht⟩ := a.response
  have htake : step s = .next t := (step_of_ready h hi).trans hrun
  have hgive : step t = .next (handOver r t) := step_handOver t _ (a.rstHeld.trans h.outOfReset) a.idle ht
  refine ⟨handOver r t, r, ?_, a.handOver_ready h.outOfReset h.nothingReceived r, a.inbox, ?_, hl⟩
  · rw [run_succ 1 s t htake, run_succ 0 t _ hgive, run_zero]
  · exact congrArg (· ++ [r]) a.outbox

/-- Settles O36: it holds, by induction on the transactions waiting. -/
theorem oneResponsePerTransaction : Obligations.OneResponsePerTransaction := by
  intro s h
  induction hi : s.inbox generalizing s with
  | nil => exact ⟨s, [], rfl, h, hi, by simp, rfl, by simp⟩
  | cons c rest ih =>
    obtain ⟨t, r, hrun, ht, htin, htout, hl⟩ := run_transaction_of_ready h hi
    obtain ⟨u, rs, hrun', hu, huin, huout, hlen, hls⟩ := ih t ht htin
    refine ⟨u, r :: rs, ?_, hu, huin, by simp [huout, htout], by simp [hlen], List.forall_mem_cons.2 ⟨hl, hls⟩⟩
    rw [List.length_cons, Nat.mul_succ, Nat.add_comm, run_add _ hrun, hrun']

end Sys2Proof.Machine
end

section
/-! The commands of a digest as runs of a ready engine, each with its response taken; HASH1 is three of them (O47, O46). -/

namespace Sys2Proof.Machine

/-- INIT waiting at a ready engine, once its response is taken (R130). -/
theorem run_init_of_ready {s : State} (h : s.Ready) {v : Variant} {rest : List Transaction}
    (hi : s.inbox = initTransaction v :: rest) :
    ∃ u, run 2 s = .next u ∧ u.Ready ∧ u.inbox = rest ∧ u.INITIALIZED = true ∧ u.VAR = v ∧ u.H = IV v ∧
      u.outbox = s.outbox ++ [okResponse] := by
  have he := exec_init_nil v (letIn rest s)
  have a := exec_answered (s := letIn rest s) h.idle he
  exact ⟨_, run_command_of_ready h hi (decode_initTransaction v) he rfl,
    a.handOver_ready h.outOfReset h.nothingReceived _, rfl, rfl, rfl, rfl, rfl⟩

/-- PROCESS_BLOCK waiting at a ready and initialised engine, once its response is taken (R149). -/
theorem run_block_of_ready {s : State} (h : s.Ready) (hI : s.INITIALIZED = true) {B : Block} {rest : List Transaction}
    (hi : s.inbox = blockTransaction B :: rest) :
    ∃ u, run 2 s = .next u ∧ u.Ready ∧ u.inbox = rest ∧ u.INITIALIZED = true ∧ u.VAR = s.VAR ∧ u.H = compress s.H B ∧
      u.outbox = s.outbox ++ [okResponse] := by
  have he := exec_block B (s := letIn rest s) hI
  have a := exec_answered (s := letIn rest s) h.idle he
  have hH := (blockEnd_H 80 B (letIn rest s)).trans (compress_eq s.H B).symm
  obtain ⟨hV, hI', -, ht, -, -, -, hin, hout⟩ := blockEnd_frame 80 B (letIn rest s)
  generalize finishBlock (roundLoop 80 (beginBlock B (letIn rest s))) = t at *
  exact ⟨_, run_command_of_ready h hi (decode_blockTransaction B) he ht,
    a.handOver_ready h.outOfReset h.nothingReceived _, hin, hI'.trans hI, hV, hH, congrArg (· ++ [okResponse]) hout⟩

/-- Settles O47: it holds; INIT, PROCESS_BLOCK and READ_DIGEST run one after the other. -/
theorem hash1GivesTheDigest : Obligations.Hash1GivesTheDigest := by
  intro v B s h hi
  refine ⟨rfl, ?_⟩
  obtain ⟨t, hrunInit, ht, htin, htI, htV, htH, htout⟩ := run_init_of_ready h hi
  obtain ⟨u, hrunBlock, hu, huin, huI, huV, huH, huout⟩ := run_block_of_ready ht htI htin
  have hrunRead := run_read_of_ready hu huin
  have hresponse : readResponse u = digestResponse v (compress (IV v) B) := by
    rw [readResponse, if_pos huI, huV, htV, huH, htH]
  refine ⟨_, (run_add (2 + 2) hrunInit).trans ((run_add 2 hrunBlock).trans hrunRead), hu.withEnds _ _, rfl, ?_⟩
  simp [huout, htout, hresponse]

/-- Settles O46: it holds; the four INIT words are R86's (O3), and each line carries its payload as it stands. -/
theorem assemblerWords : Obligations.AssemblerWords := by
  obtain ⟨-, -, -, hInit⟩ := opcodeMapDecidesDecoding
  refine ⟨?_, ?_, ?_, ?_, fun P => rfl, rfl, fun c P => rfl⟩ <;> simp [assemble, hInit]

end Sys2Proof.Machine
end

section
/-! Back-pressure (O39): while `in_ready` is low, no case of an edge looks at the input stream. -/

namespace Sys2Proof.Machine

/-- The causes of a low `in_ready` (R84; log entry 7). -/
theorem inReady_iff (rst : Bool) (s : State) :
    inReady rst s = true ↔ rst = false ∧ s.rstHeld = false ∧ s.PHASE = .idle ∧ s.tx = none := by
  simp [inReady, and_assoc]

/-- While `in_ready` is low, an edge depends on `rst` and `out_ready` alone of its inputs (R84, R220). -/
theorem edge_of_not_inReady (BL : Nat) (CL : Nat → List Word → Nat) {i j : PortIn} {s : State}
    (h : inReady i.rst s = false) (hrst : j.rst = i.rst) (hout : j.out_ready = i.out_ready) :
    edge BL CL j s = edge BL CL i s := by
  cases hi : i.rst with
  | true => rw [edge_reset hi, edge_reset (hrst.trans hi)]
  | false =>
    have hj : j.rst = false := hrst.trans hi
    cases hr : s.rstHeld with
    | true => rw [edge_endReset hi hr, edge_endReset hj hr]
    | false =>
      cases hp : s.PHASE with
      | busy => rw [edge_busy hi hr hp, edge_busy hj hr hp]
      | idle =>
        cases ht : s.tx with
        | some r =>
          by_cases hw : s.wait = 0
          · cases ho : i.out_ready with
            | true => rw [edge_give hi hr hp ht hw ho, edge_give hj hr hp ht hw (hout.trans ho)]
            | false => rw [edge_hold hi hr hp ht hw ho, edge_hold hj hr hp ht hw (hout.trans ho)]
          · rw [edge_latency hi hr hp ht hw, edge_latency hj hr hp ht hw]
        | none =>
          rw [(inReady_iff _ _).2 ⟨hi, hr, hp, ht⟩] at h
          cases h

/-- Settles O39: it holds, by the cases of an edge with `in_ready` low. -/
theorem backPressureHoldsBeatsBack : Obligations.BackPressureHoldsBeatsBack :=
  ⟨inReady_iff, fun BL CL _ _ _ h hrst hout => edge_of_not_inReady BL CL h hrst hout⟩

end Sys2Proof.Machine
end

section
/-! A transaction offered beat by beat (O42): the beats are collected up to the last one, which begins the transaction; the edges
after it count the latency down, or run the block. -/

namespace Sys2Proof.Machine

/-- One list of edges after another. -/
theorem edges_append (BL : Nat) (CL : Nat → List Word → Nat) (is js : List PortIn) (s : State) :
    edges BL CL (is ++ js) s = edges BL CL js (edges BL CL is s) := by
  induction is generalizing s with
  | nil => rfl
  | cons i is ih => exact ih (edge BL CL i s)

/-- A beat that is not the last is kept (R84). -/
theorem takeBeat_more {BL : Nat} {CL : Nat → List Word → Nat} {b : Beat} {s : State} (h : b.last = false) :
    takeBeat BL CL b s = { s with rx := s.rx ++ [b.data] } := by
  simp [takeBeat, h]

/-- The beats of a transaction, offered to an engine that can take them, begin it once the last has come (R78, R84). -/
theorem edges_offerBeats (BL : Nat) (CL : Nat → List Word → Nat) {ws : List Word} {s : State} (hr : s.rstHeld = false)
    (hp : s.PHASE = .idle) (ht : s.tx = none) (hne : ws ≠ []) :
    edges BL CL (offerBeats ws) s =
      beginTransaction BL (CL s.outbox.length (s.rx ++ ws)) (s.rx ++ ws) { s with rx := [] } := by
  induction ws generalizing s with
  | nil => contradiction
  | cons w ws ih =>
    rw [offerBeats, edges, edge_take rfl hr hp ht rfl]
    cases ws with
    | nil => rfl
    | cons w' ws =>
      have h := ih (s := { s with rx := s.rx ++ [w] }) hr hp ht (List.cons_ne_nil w' ws)
      simp only [List.append_assoc, List.singleton_append] at h
      rw [takeBeat_more rfl, h]

/-- As many edges without a beat as a response has cycles to wait leave it on offer (R225). -/
theorem edges_latency (BL : Nat) (CL : Nat → List Word → Nat) (n : Nat) {s : State} {r : Sending}
    (hr : s.rstHeld = false) (hp : s.PHASE = .idle) (ht : s.tx = some r) :
    edges BL CL (quietEdges n false) { s with wait := n } = { s with wait := 0 } := by
  induction n with
  | zero => rfl
  | succ n ih =>
    rw [quietEdges, List.replicate_succ, edges,
      edge_latency (s := { s with wait := n + 1 }) rfl hr hp ht (Nat.succ_ne_zero n)]
    exact ih

/-- Edges without a beat, as many as a block has busy cycles, end it (R8). -/
theorem edges_busy_quiet {BL : Nat} (CL : Nat → List Word → Nat) {s : State} (hBL : 1 ≤ BL) (hr : s.rstHeld = false)
    (hp : s.PHASE = .busy) :
    edges BL CL (quietEdges BL false) { s with wait := BL } = { finishBlock (roundLoop 80 s) with wait := 0 } := by
  have hlow : ∀ i ∈ quietEdges BL false, i.rst = false := by
    intro i hi
    rw [List.eq_of_mem_replicate hi]
  have hlen : (quietEdges BL false).length = BL := List.length_replicate
  have hne : quietEdges BL false ≠ [] := List.ne_nil_of_length_pos (by omega)
  have h := edges_finish BL CL hlow s hr hp hne
  rwa [hlen] at h

/-- A transaction starts the rounds exactly when it is a block and the engine is initialised (R140). -/
theorem startsBlock_iff {c : Transaction} {s : State} :
    startsBlock c s = true ↔ ∃ B : Block, decodeBeats c.beats = .ok (.processBlock B.toList) ∧ s.INITIALIZED = true := by
  unfold startsBlock
  constructor
  · intro h
    split at h
    next P hd =>
      obtain ⟨hI, hP⟩ : s.INITIALIZED = true ∧ P.length = 16 := by simpa using h
      exact ⟨⟨⟨P⟩, hP⟩, hd, hI⟩
    next => cases h
  · rintro ⟨B, hd, hI⟩
    simp [hd, hI]

/-- A transaction that starts no block is run whole when it is begun, and its answer is due after `cl` cycles (R78). -/
theorem beginTransaction_eq_run (BL cl : Nat) {c : Transaction} {s : State} (h : startsBlock c s = false) :
    ∃ t, runTransaction c s = .next t ∧ beginTransaction BL cl c.beats s = { t with wait := cl } := by
  cases hd : decodeBeats c.beats with
  | error why => exact ⟨_, runTransaction_error hd s, by simp [beginTransaction, hd]⟩
  | ok i =>
    rcases beginCommand_cases BL cl i s with ⟨B, rfl, hI, -⟩ | ⟨t, ht, hB⟩
    · rw [startsBlock_iff.2 ⟨B, hd, hI⟩] at h
      cases h
    · exact ⟨t, (runTransaction_ok hd s).trans ht, by simp [beginTransaction, hd, hB]⟩

/-- A transaction run leaves the cycle counter as it is. -/
theorem runTransaction_wait {c : Transaction} {s t : State} (h : runTransaction c s = .next t) : t.wait = s.wait := by
  cases hd : decodeBeats c.beats with
  | error why => rw [runTransaction_error hd] at h; cases h; rfl
  | ok i =>
    rw [runTransaction_ok hd] at h
    rcases exec_cases h with ⟨st, -, rfl⟩ | ⟨v, -, rfl⟩ | ⟨-, -, rfl⟩ | ⟨B, -, -, rfl⟩
    · rfl
    · rfl
    · rfl
    · obtain ⟨-, -, -, -, -, hw, -⟩ := blockEnd_frame 80 B s
      exact hw

/-- A cycle counter at zero may be set to zero. -/
theorem State.withWait_zero {s : State} (h : s.wait = 0) : { s with wait := 0 } = s := by
  rw [← h]

/-- A ready engine that begins a transaction has run it after the transaction's latency, be it a block's busy phase or the
latency of another answer. -/
theorem edges_beginTransaction {BL : Nat} (CL : Nat → List Word → Nat) (cl : Nat) {c : Transaction} {s : State}
    (hBL : 1 ≤ BL) (h : s.Ready) :
    runTransaction c s = .next
      (edges BL CL (quietEdges (if startsBlock c s = true then BL else cl) false)
        (beginTransaction BL cl c.beats s)) := by
  cases hb : startsBlock c s with
  | true =>
    obtain ⟨B, hd, hI⟩ := startsBlock_iff.1 hb
    have hbegin : beginTransaction BL cl c.beats s = { beginBlock B s with wait := BL } := by
      rw [beginTransaction, hd]
      exact beginCommand_block BL cl B s hI
    have hend : edges BL CL (quietEdges BL false) (beginTransaction BL cl c.beats s) =
        { finishBlock (roundLoop 80 (beginBlock B s)) with wait := 0 } := by
      rw [hbegin]
      exact edges_busy_quiet CL (s := beginBlock B s) hBL h.outOfReset rfl
    rw [if_pos rfl, hend, runTransaction_ok hd, exec_block B hI]
    obtain ⟨-, -, -, -, -, hw, -⟩ := blockEnd_frame 80 B s
    generalize finishBlock (roundLoop 80 (beginBlock B s)) = t at *
    rw [State.withWait_zero (hw.trans h.noWait)]
  | false =>
    obtain ⟨t, hrun, hbegin⟩ := beginTransaction_eq_run BL cl hb
    obtain ⟨t', hrun', a⟩ := runTransaction_answered c (s := s) h.idle
    cases hrun.symm.trans hrun'
    obtain ⟨r, -, ht⟩ := a.response
    have hw : t.wait = 0 := (runTransaction_wait hrun).trans h.noWait
    rw [if_neg nofun, hbegin, edges_latency BL CL cl (a.rstHeld.trans h.outOfReset) a.idle ht, hrun,
      State.withWait_zero hw]

/-- Settles O42: it holds; the beats begin the transaction (`edges_offerBeats`), which the latency that follows completes
(`edges_beginTransaction`). -/
theorem signalsRefineTheTransactionStep : Obligations.SignalsRefineTheTransactionStep := by
  intro BL CL s c rest hBL h hi
  have hready : (letIn rest s).Ready := h.withEnds rest s.outbox
  have hbeats : edges BL CL (offerBeats c.beats) (letIn rest s) =
      beginTransaction BL (CL s.outbox.length c.beats) c.beats (letIn rest s) := by
    have hne : c.beats ≠ [] := List.cons_ne_nil _ _
    rw [edges_offerBeats BL CL hready.outOfReset hready.idle hready.nothingSent hne]
    simp [letIn, h.nothingReceived]
  rw [edges_append, step_of_ready h hi]
  exact (edges_beginTransaction CL _ hBL hready).trans (by rw [← hbeats]; rfl)

end Sys2Proof.Machine
end

section
/-! A response beat by beat (O43): each edge takes the next beat on offer, until the last one ends the response. -/

namespace Sys2Proof.Machine

/-- The beat on offer is the first not yet taken, marked when none follows it (R84). -/
theorem outBeat_sending {s : State} {r : Sending} {w : Word} {ws : List Word} (hr : s.rstHeld = false)
    (hp : s.PHASE = .idle) (hw : s.wait = 0) (ht : s.tx = some r) (hd : r.rsp.beats.drop r.sent = w :: ws) :
    outBeat false s = some { data := w, last := ws.isEmpty } := by
  simp [outBeat, hr, hp, hw, ht, hd]

/-- A beat taken that is not the last (R84). -/
theorem giveBeat_more {s : State} {r : Sending} (h : r.sent < r.rsp.Q.length) :
    giveBeat r s = { s with tx := some { r with sent := r.sent + 1 } } := if_pos h

/-- The last beat taken (R84). -/
theorem giveBeat_last {s : State} {r : Sending} (h : ¬ r.sent < r.rsp.Q.length) : giveBeat r s = handOver r.rsp s :=
  if_neg h

/-- An edge with the host ready takes the beat on offer (R84). -/
theorem quietEdges_giveBeat (BL : Nat) (CL : Nat → List Word → Nat) (n : Nat) {s : State} {r : Sending} {w : Word}
    {ws : List Word} (hr : s.rstHeld = false) (hp : s.PHASE = .idle) (hw : s.wait = 0) (ht : s.tx = some r)
    (hd : r.rsp.beats.drop r.sent = w :: ws) :
    edges BL CL (quietEdges (n + 1) true) s = edges BL CL (quietEdges n true) (giveBeat r s) ∧
      beatsTaken BL CL (quietEdges (n + 1) true) s =
        { data := w, last := ws.isEmpty } :: beatsTaken BL CL (quietEdges n true) (giveBeat r s) := by
  rw [quietEdges, List.replicate_succ, ← quietEdges, edges, beatsTaken, edge_give rfl hr hp ht hw rfl, if_pos rfl,
    outBeat_sending hr hp hw ht hd]
  exact ⟨rfl, rfl⟩

/-- From any beat of a response on, as many edges with the host ready as beats remain take those beats in order, the last one
marked, and hand the response over (R80, R84). -/
theorem edges_giveBeats (BL : Nat) (CL : Nat → List Word → Nat) {r : Response} {w : Word} {ws : List Word} {k : Nat}
    {s : State} (hr : s.rstHeld = false) (hp : s.PHASE = .idle) (hw : s.wait = 0)
    (ht : s.tx = some { rsp := r, sent := k }) (hd : r.beats.drop k = w :: ws) :
    edges BL CL (quietEdges (ws.length + 1) true) s = handOver r s ∧
      (beatsTaken BL CL (quietEdges (ws.length + 1) true) s).map Beat.data = w :: ws ∧
      (beatsTaken BL CL (quietEdges (ws.length + 1) true) s).map Beat.last =
        List.replicate ws.length false ++ [true] := by
  induction ws generalizing w k s with
  | nil =>
    have hlast : ¬ k < r.Q.length := by
      have hlen : r.Q.length + 1 - k = 1 := by simpa [Response.beats] using congrArg List.length hd
      omega
    obtain ⟨hedges, htaken⟩ := quietEdges_giveBeat BL CL 0 hr hp hw ht hd
    rw [giveBeat_last hlast] at hedges htaken
    exact ⟨hedges, congrArg (List.map Beat.data) htaken, congrArg (List.map Beat.last) htaken⟩
  | cons w' ws ih =>
    have hmore : k < r.Q.length := by
      have hlen : r.Q.length + 1 - k = ws.length + 2 := by simpa [Response.beats] using congrArg List.length hd
      omega
    have hd' : r.beats.drop (k + 1) = w' :: ws := by rw [← List.drop_drop, hd]; rfl
    obtain ⟨hedges, htaken⟩ := quietEdges_giveBeat BL CL (ws.length + 1) hr hp hw ht hd
    rw [giveBeat_more hmore] at hedges htaken
    obtain ⟨hend, hdata, hlast⟩ := ih (s := { s with tx := some { rsp := r, sent := k + 1 } }) hr hp hw rfl hd'
    rw [List.length_cons, hedges, htaken, List.map_cons, List.map_cons, hdata, hlast, hend]
    exact ⟨rfl, rfl, rfl⟩

/-- Settles O43: it holds, the beats taken from the first one on (`edges_giveBeats`). -/
theorem responseLeavesBeatByBeat : Obligations.ResponseLeavesBeatByBeat := by
  intro BL CL s r hr hp hw ht
  obtain ⟨hedges, hdata, hlast⟩ := edges_giveBeats BL CL hr hp hw ht rfl
  exact ⟨(step_handOver s _ hr hp ht).trans (congrArg Host.Outcome.next hedges.symm), hdata, hlast⟩

end Sys2Proof.Machine
end

section
/-! The round primitives bit by bit: rotation and shift (O6, O7). -/

namespace Sys2Proof.Machine

/-- `rotr` is the library's rotation, also at the amount 0, which the model treats apart. -/
theorem rotr_eq_rotateRight (x : Word) (r : Fin 64) : rotr x r = x.rotateRight r.val := by
  rw [BitVec.rotateRight_def, Nat.mod_eq_of_lt r.isLt, rotr]
  split
  next h => simp [h]
  next => rfl

theorem getLsbD_rotr (x : Word) (r : Fin 64) {j : Nat} (hj : j < 64) :
    (rotr x r).getLsbD j = x.getLsbD ((j + r.val) % 64) := by
  rw [rotr_eq_rotateRight, BitVec.getLsbD_rotateRight, Nat.mod_eq_of_lt r.isLt]
  by_cases h : j < 64 - r.val
  · rw [decide_eq_true h, cond_true, Nat.mod_eq_of_lt (by omega), Nat.add_comm]
  · have hwrap : (j + r.val) % 64 = j - (64 - r.val) := by omega
    rw [decide_eq_false h, cond_false, decide_eq_true hj, Bool.true_and, hwrap]

/-- Settles O6: it holds, by the two ranges of the library's rotation (`getLsbD_rotr`). -/
theorem rotrMovesEveryBit : Obligations.RotrMovesEveryBit :=
  ⟨fun x r _ hj => getLsbD_rotr x r hj, fun _ => rfl⟩

@[simp] theorem getLsbD_shr (x : Word) (r : Fin 64) (j : Nat) : (shr x r).getLsbD j = x.getLsbD (j + r.val) := by
  rw [shr, BitVec.getLsbD_ushiftRight, Nat.add_comm]

/-- Settles O7: it holds, a bit from beyond the word being zero. -/
theorem shrFillsWithZeros : Obligations.ShrFillsWithZeros := fun x r =>
  ⟨fun j _ => getLsbD_shr x r j,
   fun j hj => (getLsbD_shr x r j).trans (BitVec.getLsbD_of_ge x _ hj),
   by rw [shr, BitVec.toNat_ushiftRight, Nat.shiftRight_eq_div_pow]⟩

end Sys2Proof.Machine
end

section
/-! Choice and majority (O8): each bit of the result is a choice or a majority of three bits, and the laws of the words follow
from the laws of the bits. -/

namespace Sys2Proof.Machine

theorem getLsbD_Ch (x y z : Word) {j : Nat} (hj : j < 64) :
    (Ch x y z).getLsbD j = if x.getLsbD j then y.getLsbD j else z.getLsbD j := by
  simp only [Ch, BitVec.getLsbD_xor, BitVec.getLsbD_and, BitVec.getLsbD_not, hj, decide_true, Bool.true_and]
  cases x.getLsbD j <;> simp

/-- The XOR of the three conjunctions of R104 is the majority. -/
theorem xor_of_ands_eq_majority (a b c : Bool) :
    ((a && b) ^^ (a && c) ^^ (b && c)) = decide (2 ≤ a.toNat + b.toNat + c.toNat) := by
  revert a b c
  decide

theorem getLsbD_Maj (x y z : Word) (j : Nat) :
    (Maj x y z).getLsbD j = decide (2 ≤ (x.getLsbD j).toNat + (y.getLsbD j).toNat + (z.getLsbD j).toNat) := by
  rw [Maj, BitVec.getLsbD_xor, BitVec.getLsbD_xor, BitVec.getLsbD_and, BitVec.getLsbD_and, BitVec.getLsbD_and,
    xor_of_ands_eq_majority]

theorem Ch_allOnes (y z : Word) : Ch (BitVec.allOnes 64) y z = y :=
  BitVec.eq_of_getLsbD_eq fun j hj => by rw [getLsbD_Ch _ _ _ hj, BitVec.getLsbD_allOnes, decide_eq_true hj, if_pos rfl]

theorem Ch_zero (y z : Word) : Ch 0#64 y z = z :=
  BitVec.eq_of_getLsbD_eq fun j hj => by rw [getLsbD_Ch _ _ _ hj, BitVec.getLsbD_zero, if_neg Bool.false_ne_true]

theorem Ch_same (x y : Word) : Ch x y y = y :=
  BitVec.eq_of_getLsbD_eq fun j hj => by rw [getLsbD_Ch _ _ _ hj, ite_self]

theorem Maj_swap_left (x y z : Word) : Maj x y z = Maj y x z :=
  BitVec.eq_of_getLsbD_eq fun j _ => by rw [getLsbD_Maj, getLsbD_Maj, Nat.add_comm (x.getLsbD j).toNat]

theorem Maj_swap_right (x y z : Word) : Maj x y z = Maj x z y :=
  BitVec.eq_of_getLsbD_eq fun j _ => by rw [getLsbD_Maj, getLsbD_Maj, Nat.add_right_comm]

/-- Two equal votes decide. -/
theorem Maj_same (x y : Word) : Maj x x y = x :=
  BitVec.eq_of_getLsbD_eq fun j _ => by
    rw [getLsbD_Maj]
    cases x.getLsbD j <;> cases y.getLsbD j <;> rfl

/-- Two opposite votes leave it to the third. -/
theorem Maj_not (x z : Word) : Maj x (~~~x) z = z :=
  BitVec.eq_of_getLsbD_eq fun j hj => by
    rw [getLsbD_Maj, BitVec.getLsbD_not, decide_eq_true hj]
    cases x.getLsbD j <;> cases z.getLsbD j <;> rfl

/-- Settles O8: it holds, by the laws of the bits. -/
theorem chChoosesAndMajVotes : Obligations.ChChoosesAndMajVotes :=
  ⟨fun x y z j hj => ⟨getLsbD_Ch x y z hj, getLsbD_Maj x y z j⟩,
   fun x y z => ⟨rfl, rfl, Ch_allOnes y z, Ch_zero y z, Ch_same x y, Maj_swap_left x y z, Maj_swap_right x y z,
     Maj_same x y, Maj_not x z⟩⟩

end Sys2Proof.Machine
end

section
/-! The sigma functions (O9): rotation and shift are linear over XOR, so each sum of them is. -/

namespace Sys2Proof.Machine

theorem rotr_xor (x y : Word) (r : Fin 64) : rotr (x ^^^ y) r = rotr x r ^^^ rotr y r :=
  BitVec.eq_of_getLsbD_eq fun j hj => by
    rw [BitVec.getLsbD_xor, getLsbD_rotr _ _ hj, getLsbD_rotr _ _ hj, getLsbD_rotr _ _ hj, BitVec.getLsbD_xor]

theorem shr_xor (x y : Word) (r : Fin 64) : shr (x ^^^ y) r = shr x r ^^^ shr y r :=
  BitVec.ushiftRight_xor_distrib x y r.val

/-- A bit of a shift with the bound of R102 written out: beyond it the bit is zero. -/
theorem getLsbD_shr_bounded (x : Word) (r : Fin 64) (j : Nat) :
    (shr x r).getLsbD j = (decide (j + r.val < 64) && x.getLsbD (j + r.val)) := by
  rw [getLsbD_shr]
  by_cases h : j + r.val < 64
  · rw [decide_eq_true h, Bool.true_and]
  · rw [decide_eq_false h, Bool.false_and, BitVec.getLsbD_of_ge x _ (Nat.le_of_not_lt h)]

/-- XORs of three terms each, put together term by term. -/
theorem xor_three_xor (a b c a' b' c' : Word) :
    (a ^^^ a') ^^^ (b ^^^ b') ^^^ (c ^^^ c') = (a ^^^ b ^^^ c) ^^^ (a' ^^^ b' ^^^ c') := by
  ac_rfl

theorem SIGMA0_xor (x y : Word) : SIGMA0 (x ^^^ y) = SIGMA0 x ^^^ SIGMA0 y := by
  simp only [SIGMA0, rotr_xor, xor_three_xor]

theorem SIGMA1_xor (x y : Word) : SIGMA1 (x ^^^ y) = SIGMA1 x ^^^ SIGMA1 y := by
  simp only [SIGMA1, rotr_xor, xor_three_xor]

theorem sigma0_xor (x y : Word) : sigma0 (x ^^^ y) = sigma0 x ^^^ sigma0 y := by
  simp only [sigma0, rotr_xor, shr_xor, xor_three_xor]

theorem sigma1_xor (x y : Word) : sigma1 (x ^^^ y) = sigma1 x ^^^ sigma1 y := by
  simp only [sigma1, rotr_xor, shr_xor, xor_three_xor]

/-- A bit of the XOR of three rotations, the shape of R105 and R106. -/
theorem getLsbD_rotr_xor_three (x : Word) (p q r : Fin 64) {j : Nat} (hj : j < 64) :
    (rotr x p ^^^ rotr x q ^^^ rotr x r).getLsbD j =
      ((x.getLsbD ((j + p.val) % 64) ^^ x.getLsbD ((j + q.val) % 64)) ^^ x.getLsbD ((j + r.val) % 64)) := by
  simp only [BitVec.getLsbD_xor, getLsbD_rotr x _ hj]

/-- A bit of the XOR of two rotations and a shift, the shape of R107 and R108. -/
theorem getLsbD_rotr_xor_shr (x : Word) (p q r : Fin 64) {j : Nat} (hj : j < 64) :
    (rotr x p ^^^ rotr x q ^^^ shr x r).getLsbD j =
      ((x.getLsbD ((j + p.val) % 64) ^^ x.getLsbD ((j + q.val) % 64)) ^^
        (decide (j + r.val < 64) && x.getLsbD (j + r.val))) := by
  simp only [BitVec.getLsbD_xor, getLsbD_rotr x _ hj, getLsbD_shr_bounded]

/-- Settles O9: it holds, by the two shapes of the sigma functions, the linearity of their terms, and evaluation at 0 and
all ones. -/
theorem sigmaFunctionsBitByBit : Obligations.SigmaFunctionsBitByBit :=
  ⟨fun x _ hj => ⟨getLsbD_rotr_xor_three x 28 34 39 hj, getLsbD_rotr_xor_three x 14 18 41 hj,
     getLsbD_rotr_xor_shr x 1 8 7 hj, getLsbD_rotr_xor_shr x 19 61 6 hj⟩,
   fun x y => ⟨SIGMA0_xor x y, SIGMA1_xor x y, sigma0_xor x y, sigma1_xor x y⟩,
   by decide⟩

end Sys2Proof.Machine
end

section
/-! The mixing transforms (O10): the remainder of a sum may be taken at each addition or once at the end. -/

namespace Sys2Proof.Machine

@[simp] theorem toNat_add64 (x y : Word) : (add64 x y).toNat = (x.toNat + y.toNat) % 2 ^ 64 := BitVec.toNat_add x y

/-- Settles O10: it holds, the inner remainders dropping out of the sum (`Nat.mod_add_mod`). -/
theorem mixingTransformsAreExactSumsModulo : Obligations.MixingTransformsAreExactSumsModulo :=
  ⟨fun x y => ⟨toNat_add64 x y, BitVec.add_comm x y⟩,
   fun x y z => BitVec.add_assoc x y z,
   fun e f g h k w => by simp only [T1, toNat_add64, Nat.mod_add_mod],
   fun a b c => toNat_add64 (SIGMA0 a) (Maj a b c)⟩

end Sys2Proof.Machine
end

section
/-! One action of a BUSY engine (O23, O24), and what a whole block comes to (O15). -/

namespace Sys2Proof.Machine

theorem SCHED_of_lt {i : Nat} (h : i < 16) (W : Block) : SCHED i W = W[i] := dif_pos h

theorem SCHED_of_ge {i : Nat} (h : 16 ≤ i) (W : Block) : SCHED i W = recurrence W := dif_neg (Nat.not_lt.2 h)

theorem windowStep_of_lt {i : Nat} (h : i < 16) (W : Block) : windowStep i W = W := if_neg (Nat.not_le.2 h)

theorem windowStep_of_ge {i : Nat} (h : 16 ≤ i) (W : Block) : windowStep i W = shiftWindow W (SCHED i W) := if_pos h

/-- The window after round i, the case of the first rounds first (R144). -/
theorem windowStep_eq (i : Nat) (W : Block) : windowStep i W = if i < 16 then W else shiftWindow W (SCHED i W) := by
  by_cases h : i < 16
  · rw [windowStep_of_lt h, if_pos h]
  · rw [windowStep_of_ge (Nat.not_lt.1 h), if_neg h]

/-- Settles O23: it holds; the step is the round RND, its schedule word SCHED of the window before it. -/
theorem busyStepIsOneRound : Obligations.BusyStepIsOneRound := by
  intro s h hr hp
  refine ⟨SCHED s.RND.val s.W, fun h16 => SCHED_of_lt h16 s.W, fun h16 => SCHED_of_ge h16 s.W, ?_⟩
  rw [step_busy s hr hp, sequencerStep, dif_pos h, doRound, windowStep_eq]
  rfl

/-- The end of a block with its sum and its response written out (R148, R140). -/
theorem finishBlock_eq (s : State) :
    finishBlock s = { s with H := addRegisters s.H s.regs, PHASE := .idle, tx := offered okResponse } := by
  rw [finishBlock, respond_ok_eq]
  rfl

/-- Settles O24: it holds; with RND = 80 the sequencer ends the block (`sequencerStep_finish`). -/
theorem busyStepEndsWithFold : Obligations.BusyStepEndsWithFold := by
  intro s hr hp hR
  have h80 : ¬ s.RND.val < 80 := by simp [hR]
  rw [step_busy s hr hp, sequencerStep_finish h80, finishBlock_eq]
  rfl

/-- `H` when a block ends after its 80 rounds (R149). -/
theorem blockEnd_compress (B : Block) (s : State) :
    (finishBlock (roundLoop 80 (beginBlock B s))).H = compress s.H B :=
  (blockEnd_H 80 B s).trans (compress_eq s.H B).symm

/-- Settles O15: it holds; an accepted block runs its 80 rounds and ends (`exec_block`), with `H` compressed
(`blockEnd_compress`) and the rest as the block found it (`blockEnd_frame`). -/
theorem processBlockIsCompress : Obligations.ProcessBlockIsCompress := by
  intro B s hI
  obtain ⟨hV, hI', hport⟩ := blockEnd_frame 80 B s
  exact ⟨_, exec_block B hI, blockEnd_compress B s, hV, hI'.trans hI, hport⟩

end Sys2Proof.Machine
end

section
/-! The message schedule (O27): from round 16 on, the window holds the last sixteen schedule words, the oldest first. -/

namespace Sys2Proof.Machine

theorem windowBefore_succ (B : Block) (i : Nat) : windowBefore B (i + 1) = windowStep i (windowBefore B i) := rfl

/-- Before the shifts begin, the window is the block (R144). -/
theorem windowBefore_of_le (B : Block) {i : Nat} (h : i ≤ 16) : windowBefore B i = B := by
  induction i with
  | zero => rfl
  | succ i ih => rw [windowBefore_succ, windowStep_of_lt h, ih (Nat.le_of_succ_le h)]

theorem scheduleWord_of_lt (B : Block) {t : Nat} (h : t < 16) : scheduleWord B t = B[t] := by
  simp only [scheduleWord, SCHED_of_lt h, windowBefore_of_le B (Nat.le_of_lt h)]

/-- The words of a shifted window: each its right neighbour, the last the new word (R144). -/
theorem getElem_shiftWindow (W : Block) (w : Word) {j : Nat} (hj : j < 16) :
    (shiftWindow W w)[j] = if h : j + 1 < 16 then W[j + 1] else w := by
  interval_cases j <;> rfl

/-- From round 16 on, the window before a round is the sixteen schedule words before that round's. -/
theorem getElem_windowBefore (B : Block) (n : Nat) {j : Nat} (hj : j < 16) :
    (windowBefore B (16 + n))[j] = scheduleWord B (n + j) := by
  induction n generalizing j with
  | zero => simp only [Nat.add_zero, Nat.zero_add, windowBefore_of_le B (Nat.le_refl 16), scheduleWord_of_lt B hj]
  | succ n ih =>
    have hshift : windowBefore B (16 + (n + 1)) = shiftWindow (windowBefore B (16 + n)) (scheduleWord B (16 + n)) :=
      windowStep_of_ge (Nat.le_add_right 16 n) _
    simp only [hshift, getElem_shiftWindow _ _ hj]
    by_cases h : j + 1 < 16
    · rw [dif_pos h, ih h, Nat.add_assoc, Nat.add_comm 1]
    · obtain rfl : j = 15 := by omega
      rw [dif_neg h, Nat.add_assoc, Nat.add_comm n]

/-- The recurrence of R153, from word 16 on. -/
theorem scheduleWord_recurrence (B : Block) (n : Nat) :
    scheduleWord B (16 + n) = sigma1 (scheduleWord B (n + 14)) + scheduleWord B (n + 9) +
      sigma0 (scheduleWord B (n + 1)) + scheduleWord B n := by
  rw [scheduleWord, SCHED_of_ge (Nat.le_add_right 16 n)]
  simp only [recurrence, add64_eq, getElem_windowBefore, Nat.add_zero]

/-- Settles O27: it holds; the first sixteen words are the block's, and the later ones obey the recurrence. -/
theorem windowRealisesTheSchedule : Obligations.WindowRealisesTheSchedule := by
  intro B
  refine ⟨fun t h => scheduleWord_of_lt B h, fun t h _ => ?_⟩
  obtain ⟨n, rfl⟩ := Nat.exists_eq_add_of_le h
  rw [scheduleWord_recurrence, show 16 + n - 2 = n + 14 by omega, show 16 + n - 7 = n + 9 by omega,
    show 16 + n - 15 = n + 1 by omega, Nat.add_sub_cancel_left]

end Sys2Proof.Machine
end

section
/-! The circular buffer (O28): it holds the last sixteen schedule words, each in the place its number has modulo 16. -/

namespace Sys2Proof.Machine

theorem circularStep_of_ge {i : Nat} (h : 16 ≤ i) (C : Block) :
    circularStep i C = C.set (i % 16) (circularWord i C) := if_pos h

/-- Before the writes begin, the circular buffer is the block (R152). -/
theorem circularBefore_of_le (B : Block) {i : Nat} (h : i ≤ 16) : circularBefore B i = B := by
  induction i with
  | zero => rfl
  | succ i ih => rw [circularBefore, circularStep, if_neg (Nat.not_le.2 h), ih (Nat.le_of_succ_le h)]

/-- The buffer `C` holds the sixteen schedule words from number `n` on. -/
def HoldsFrom (B : Block) (n : Nat) (C : Block) : Prop :=
  ∀ j < 16, C[(n + j) % 16] = scheduleWord B (n + j)

/-- The word a round reads from the sixteen words before it is its schedule word (R152, R153). -/
theorem HoldsFrom.circularWord_eq {B C : Block} {n : Nat} (h : HoldsFrom B n C) :
    circularWord (16 + n) C = scheduleWord B (16 + n) := by
  have h0 : C[n % 16] = scheduleWord B n := h 0 (by decide)
  rw [circularWord, if_neg (by omega), scheduleWord_recurrence]
  simp only [show 16 + n - 2 = n + 14 by omega, show 16 + n - 7 = n + 9 by omega, show 16 + n - 15 = n + 1 by omega,
    Nat.add_mod_left, h0, h 14 (by decide), h 9 (by decide), h 1 (by decide)]

/-- A round writes its word over the oldest one, which has the same number modulo 16 (R152). -/
theorem HoldsFrom.step {B C : Block} {n : Nat} (h : HoldsFrom B n C) :
    HoldsFrom B (n + 1) (circularStep (16 + n) C) := by
  intro j hj
  simp only [show n + 1 + j = n + (j + 1) by omega, circularStep_of_ge (Nat.le_add_right 16 n), h.circularWord_eq,
    Vector.getElem_set]
  by_cases hlast : j + 1 = 16
  · rw [if_pos (by omega), hlast, Nat.add_comm]
  · rw [if_neg (by omega), h (j + 1) (by omega)]

/-- From round 16 on, the buffer before a round holds the sixteen schedule words before that round's. -/
theorem circularBefore_holds (B : Block) (n : Nat) : HoldsFrom B n (circularBefore B (16 + n)) := by
  induction n with
  | zero =>
    intro j hj
    simp only [Nat.add_zero, Nat.zero_add, Nat.mod_eq_of_lt hj, circularBefore_of_le B (Nat.le_refl 16),
      scheduleWord_of_lt B hj]
  | succ n ih => exact ih.step

/-- Settles O28: it holds; below round 16 both are the block, and from there on buffer and window hold the same sixteen
schedule words (`circularBefore_holds`, `getElem_windowBefore`). -/
theorem circularBufferGivesTheSameSchedule : Obligations.CircularBufferGivesTheSameSchedule := by
  intro B i
  constructor
  · by_cases h : i < 16
    · rw [circularWord, if_pos h, scheduleWord_of_lt B h]
      simp only [circularBefore_of_le B (Nat.le_of_lt h), Nat.mod_eq_of_lt h]
    · obtain ⟨n, rfl⟩ := Nat.exists_eq_add_of_le (Nat.not_lt.1 h)
      exact (circularBefore_holds B n).circularWord_eq
  · intro h j hj
    obtain ⟨n, rfl⟩ := Nat.exists_eq_add_of_le h
    have hC := circularBefore_holds B (n + 1) j hj
    have hW := getElem_windowBefore B (n + 1) hj
    simp only [Nat.add_sub_cancel_left, Nat.add_right_comm n j 1]
    exact hC.trans hW.symm

end Sys2Proof.Machine
end

section
/-! A digest over many blocks (O37). -/

namespace Sys2Proof.Machine

/-- Blocks waiting at a ready and initialised engine, once their responses are taken: `H` is compressed with them in order
(R154). -/
theorem run_blocks_of_ready (Bs : List Block) {s : State} (h : s.Ready) (hI : s.INITIALIZED = true)
    {rest : List Transaction} (hi : s.inbox = Bs.map blockTransaction ++ rest) :
    ∃ u, run (2 * Bs.length) s = .next u ∧ u.Ready ∧ u.inbox = rest ∧ u.INITIALIZED = true ∧ u.VAR = s.VAR ∧
      u.H = Bs.foldl compress s.H ∧ u.outbox = s.outbox ++ List.replicate Bs.length okResponse := by
  induction Bs generalizing s with
  | nil => exact ⟨s, rfl, h, hi, hI, rfl, rfl, (List.append_nil _).symm⟩
  | cons B Bs ih =>
    obtain ⟨t, hrun, ht, htin, htI, htV, htH, htout⟩ := run_block_of_ready h hI hi
    obtain ⟨u, hrun', hu, huin, huI, huV, huH, huout⟩ := ih ht htI htin
    refine ⟨u, ?_, hu, huin, huI, huV.trans htV, by rw [huH, htH, List.foldl_cons], ?_⟩
    · rw [List.length_cons, Nat.mul_succ, Nat.add_comm, run_add _ hrun, hrun']
    · rw [huout, htout, List.append_assoc, List.length_cons, List.replicate_succ, List.singleton_append]

/-- Settles O37: it holds; INIT, the blocks and READ_DIGEST run one after the other. -/
theorem blocksChainThroughTheDigest : Obligations.BlocksChainThroughTheDigest := by
  intro v Bs s h hi
  obtain ⟨t, hrunInit, ht, htin, htI, htV, htH, htout⟩ := run_init_of_ready h hi
  obtain ⟨u, hrunBlocks, hu, huin, huI, huV, huH, huout⟩ := run_blocks_of_ready Bs ht htI htin
  have hrunRead := run_read_of_ready hu huin
  have hH : u.H = Bs.foldl compress (IV v) := by rw [huH, htH]
  have hresponse : readResponse u = digestResponse v (Bs.foldl compress (IV v)) := by
    rw [readResponse, if_pos huI, huV, htV, hH]
  have hlen : run (2 * (Bs.length + 2)) s = run (2 + (2 * Bs.length + 2)) s := congrArg (run · s) (by omega)
  refine ⟨_, hlen.trans ((run_add _ hrunInit).trans ((run_add 2 hrunBlocks).trans hrunRead)), hu.withEnds _ _, rfl,
    huV.trans htV, huI, hH, ?_⟩
  simp [huout, htout, hresponse, List.replicate_succ]

end Sys2Proof.Machine
end

section
/-! INIT on every state (O14). -/

namespace Sys2Proof.Machine

/-- Settles O14: it holds; the words are decoded in O5, and INIT has one case without and one with a payload. -/
theorem initLoadsVariant : Obligations.InitLoadsVariant := by
  refine ⟨fun P => ?_, exec_init_nil, fun v P s hP => congrArg Host.Outcome.next (initVariant_payload v s hP)⟩
  obtain ⟨h512, h384, h224, h256, -⟩ := writtenWordsDecode P
  exact ⟨h512, h384, h224, h256⟩

end Sys2Proof.Machine
end

section
/-! The read-out of the digest state word by word (O16). -/

namespace Sys2Proof.Machine

theorem toList_digest (H : Digest) : H.toList = [H[0], H[1], H[2], H[3], H[4], H[5], H[6], H[7]] := by
  apply List.ext_getElem (by simp)
  intro i hi _
  have hi' : i < 8 := by simpa using hi
  interval_cases i <;> rfl

theorem truncWord_whole {t j : Nat} (h : 64 * (j + 1) ≤ t) (x : Word) : truncWord t j x = x := if_pos h

theorem wordsFor_words (k : Nat) : wordsFor (64 * k) = k := by
  rw [wordsFor]
  omega

/-- A read-out of whole words is the first words of `H` (R151). -/
theorem trunc_words (H : Digest) (k : Nat) : trunc H (64 * k) = H.toList.take k := by
  rw [trunc, wordsFor_words]
  apply List.ext_getElem (by simp)
  intro j _ hj
  have hjk : 64 * (j + 1) ≤ 64 * k := by
    rw [List.length_take] at hj
    omega
  simp [truncWord_whole hjk]

/-- The read-out of SHA-512/224 is three words and the upper half of a fourth (R151). -/
theorem trunc_224 (H : Digest) : trunc H 224 = H.toList.take 3 ++ [H[3] &&& 0xFFFFFFFF00000000#64] := by
  have h4 : truncWord 224 3 H[3] = H[3] &&& 0xFFFFFFFF00000000#64 := rfl
  rw [trunc, toList_digest]
  simp [wordsFor, truncWord_whole, h4]

/-- Settles O16: it holds; the digest response is its header and the words of the read-out, variant by variant. -/
theorem readDigestReturnsTruncatedDigest : Obligations.ReadDigestReturnsTruncatedDigest := by
  refine ⟨fun P => decode_encodeWord (.readDigest P), fun s hI => ?_, fun P s hI => congrArg Host.Outcome.next
    (readDigest_uninit P s hI), fun P s hI hP => congrArg Host.Outcome.next (readDigest_payload s hI hP)⟩
  rw [exec_read_nil hI, digestResponse]
  cases s.VAR with
  | sha512 => rw [outLen, trunc_words s.H 8, toList_digest]; rfl
  | sha384 => rw [outLen, trunc_words s.H 6, toList_digest]; rfl
  | sha512_224 => rw [outLen, trunc_224, toList_digest]; rfl
  | sha512_256 => rw [outLen, trunc_words s.H 4, toList_digest]; rfl

end Sys2Proof.Machine
end

section
/-! A read-out as one number (O17). -/

namespace Sys2Proof.Machine

theorem concatWords_concat (L : List Word) (w : Word) : concatWords (L ++ [w]) = concatWords L * 2 ^ 64 + w.toNat := by
  simp only [concatWords, List.foldl_append, List.foldl_cons, List.foldl_nil]

/-- Dividing by the weight of the last word drops it. -/
theorem concatWords_concat_div (L : List Word) (w : Word) : concatWords (L ++ [w]) / 2 ^ 64 = concatWords L := by
  have hw := w.isLt
  rw [concatWords_concat]
  omega

/-- Dividing by the weight of the words `R` drops them. -/
theorem concatWords_append_div (L R : List Word) : concatWords (L ++ R) / 2 ^ (64 * R.length) = concatWords L := by
  induction R using List.reverseRecOn with
  | nil => simp
  | append_singleton R w ih =>
    have hlen : 64 * (R ++ [w]).length = 64 + 64 * R.length := by
      rw [List.length_append, List.length_singleton]
      omega
    rw [← List.append_assoc, hlen, Nat.pow_add, ← Nat.div_div_eq_div_mul, concatWords_concat_div, ih]

/-- The first k words of a digest state are its 64 k most significant bits. -/
theorem concatWords_take (H : Digest) (k : Nat) :
    concatWords (H.toList.take k) = concatWords H.toList / 2 ^ (512 - 64 * k) := by
  have h := concatWords_append_div (H.toList.take k) (H.toList.drop k)
  rw [List.take_append_drop, List.length_drop, Vector.length_toList, Nat.mul_sub] at h
  exact h.symm

/-- A read-out of whole words as one number; no zeros follow. -/
theorem concatWords_trunc_words (H : Digest) (k : Nat) :
    concatWords (trunc H (64 * k)) =
      concatWords H.toList / 2 ^ (512 - 64 * k) * 2 ^ (64 * wordsFor (64 * k) - 64 * k) := by
  rw [trunc_words, concatWords_take, wordsFor_words, Nat.sub_self, Nat.pow_zero, Nat.mul_one]

/-- Masking the lower half of a word away leaves its upper half followed by zeros. -/
theorem toNat_and_upper (x : Word) : (x &&& 0xFFFFFFFF00000000#64).toNat = x.toNat / 2 ^ 32 * 2 ^ 32 := by
  have h : x >>> 32 <<< 32 = x &&& 0xFFFFFFFF00000000#64 := BitVec.shiftLeft_ushiftRight
  rw [← h, BitVec.toNat_shiftLeft, BitVec.toNat_ushiftRight, Nat.shiftRight_eq_div_pow, Nat.shiftLeft_eq,
    Nat.mod_eq_of_lt (by omega)]

/-- The read-out of SHA-512/224 as one number: the last half word of the first four words is cleared. -/
theorem concatWords_trunc_224 (H : Digest) :
    concatWords (trunc H 224) = concatWords H.toList / 2 ^ (512 - 224) * 2 ^ (64 * wordsFor 224 - 224) := by
  have htake : H.toList.take 4 = H.toList.take 3 ++ [H[3]] := by rw [toList_digest]; rfl
  have hfour : concatWords (H.toList.take 3) * 2 ^ 64 + H[3].toNat = concatWords H.toList / 2 ^ 256 := by
    rw [← concatWords_concat, ← htake, concatWords_take]
  have hdrop : 512 - 224 = 256 + 32 := rfl
  have hzeros : 64 * wordsFor 224 - 224 = 32 := rfl
  rw [trunc_224, concatWords_concat, toNat_and_upper, hzeros, hdrop, Nat.pow_add, ← Nat.div_div_eq_div_mul, ← hfour]
  omega

/-- Settles O17: it holds, by whether the variant's read-out ends with a whole word (`concatWords_trunc_words`) or with half
of one (`concatWords_trunc_224`). -/
theorem truncKeepsTheTopBits : Obligations.TruncKeepsTheTopBits := by
  intro v H
  refine ⟨trunc_length H v, ?_⟩
  cases v with
  | sha512 => exact concatWords_trunc_words H 8
  | sha384 => exact concatWords_trunc_words H 6
  | sha512_224 => rw [outLen, concatWords_trunc_224]
  | sha512_256 => exact concatWords_trunc_words H 4

end Sys2Proof.Machine
end

section
/-! Errors: which one is reported (O18), that a command answered with one writes nothing (O19), and that no step fails (O31). -/

namespace Sys2Proof.Machine

/-- Settles O31: it holds; every action answers a next state (`step_next`). -/
theorem everyStepAnswersANextState : Obligations.EveryStepAnswersANextState := step_next

/-- INIT with a payload, whatever the state (R181). -/
theorem exec_init_payload {P : List Word} (v : Variant) (s : State) (hP : P ≠ []) :
    exec (.init v P) s = .next { s with tx := offered (errorResponse .badLength) } :=
  congrArg Host.Outcome.next (initVariant_payload v s hP)

/-- PROCESS_BLOCK before INIT, whatever the payload (R182). -/
theorem exec_block_uninit (P : List Word) {s : State} (hI : s.INITIALIZED = false) :
    exec (.processBlock P) s = .next { s with tx := offered (errorResponse .notInitialized) } :=
  congrArg Host.Outcome.next (processBlock_uninit P s hI)

/-- READ_DIGEST before INIT, whatever the payload (R182). -/
theorem exec_read_uninit (P : List Word) {s : State} (hI : s.INITIALIZED = false) :
    exec (.readDigest P) s = .next { s with tx := offered (errorResponse .notInitialized) } :=
  congrArg Host.Outcome.next (readDigest_uninit P s hI)

/-- Settles O18: it holds; the step runs what the transaction decodes to (O29), and each error is that command's answer. -/
theorem firstErrorInOrderIsReported : Obligations.FirstErrorInOrderIsReported := by
  intro s t rest h hi
  obtain ⟨hok, hillegal⟩ := stepRunsTheDecodedCommand s t rest h hi
  have hlength : ∀ i, decodeBeats t.beats = .ok i → s.INITIALIZED = true → i.wellFormed = false →
      step s = .next { s with inbox := rest, tx := offered (errorResponse .badLength) } :=
    fun i hd hI hw => (hok i hd).trans (exec_illFormed hI hw)
  refine ⟨hillegal, ?notInitialized, ?blockLength, ?readLength, ?initLength⟩
  case notInitialized =>
    rintro P (hd | hd) hI
    · exact (hok _ hd).trans (exec_block_uninit P hI)
    · exact (hok _ hd).trans (exec_read_uninit P hI)
  case blockLength => exact fun P hd hI hP => hlength _ hd hI (by simpa [Instr.wellFormed] using hP)
  case readLength => exact fun P hd hI hP => hlength _ hd hI (by simpa [Instr.wellFormed] using hP)
  case initLength =>
    exact fun v P hd hP => (hok _ hd).trans (exec_init_payload v _ (mt List.length_eq_zero_iff.2 hP))

/-- A port with nothing sent yet offers one response only. -/
theorem offered_injective : Function.Injective offered := fun _ _ h =>
  congrArg Sending.rsp (Option.some.inj h)

/-- A command answered with a status other than OK only offers that response (R185): the other three outcomes of a command
are answered OK. -/
theorem exec_of_status_ne_ok {i : Instr} {s t : State} {r : Response} (he : exec i s = .next t)
    (ht : t.tx = offered r) (hr : statusField r.RSP ≠ 0#4) : t = { s with tx := offered r } := by
  rcases exec_cases he with ⟨st, -, rfl⟩ | ⟨v, -, rfl⟩ | ⟨-, -, rfl⟩ | ⟨B, -, -, rfl⟩
  · rw [← ht]
  · obtain rfl := offered_injective ht
    exact absurd rfl hr
  · obtain rfl := offered_injective ht
    exact absurd (statusField_digestHeader s.VAR) hr
  · obtain ⟨-, -, -, hok, -⟩ := blockEnd_frame 80 B s
    obtain rfl := offered_injective (hok.symm.trans ht)
    exact absurd rfl hr

/-- So does a transaction, legal or not (R183). -/
theorem runTransaction_of_status_ne_ok {c : Transaction} {s t : State} {r : Response}
    (h : runTransaction c s = .next t) (ht : t.tx = offered r) (hr : statusField r.RSP ≠ 0#4) :
    t = { s with tx := offered r } := by
  cases hd : decodeBeats c.beats with
  | error why =>
    rw [runTransaction_error hd, raise_eq] at h
    cases h
    rw [← ht]
  | ok i =>
    rw [runTransaction_ok hd] at h
    exact exec_of_status_ne_ok h ht hr

/-- Settles O19: it holds, for a command (`exec_of_status_ne_ok`) and for a transaction taken by a ready engine
(`runTransaction_of_status_ne_ok`), which stays IDLE. -/
theorem failedCommandWritesNothing : Obligations.FailedCommandWritesNothing := by
  refine ⟨fun i s t r => exec_of_status_ne_ok, fun s u c rest r h hi hs ht hr => ?_⟩
  rw [step_of_ready h hi] at hs
  obtain rfl := runTransaction_of_status_ne_ok hs ht hr
  exact ⟨rfl, h.idle⟩

end Sys2Proof.Machine
end

section
/-! A reset at any moment (O40): edges with `rst` high, however many, leave one reset event, the edge after it falls completes
it, and no beat moves out meanwhile. -/

namespace Sys2Proof.Machine

/-- Only the last reset event shows. -/
@[simp] theorem resetEvent_resetEvent (a b : Bool) (s : State) : resetEvent a (resetEvent b s) = resetEvent a s := rfl

/-- The edge after `rst` falls leaves the engine ready for a command (R211). -/
theorem resetEvent_ready (s : State) : (resetEvent false s).Ready := ⟨rfl, rfl, rfl, rfl, rfl⟩

/-- Reset that lasts over one or more edges is one reset event (R210). -/
theorem edges_reset (BL : Nat) (CL : Nat → List Word → Nat) {highs : List PortIn} (hne : highs ≠ [])
    (hrst : ∀ i ∈ highs, i.rst = true) (s : State) : edges BL CL highs s = resetEvent true s := by
  induction highs generalizing s with
  | nil => exact absurd rfl hne
  | cons i is ih =>
    obtain ⟨hi, his⟩ := List.forall_mem_cons.1 hrst
    rw [edges, edge_reset hi]
    by_cases hnil : is = []
    · rw [hnil, edges]
    · rw [ih hnil his, resetEvent_resetEvent]

/-- The beats that move during one list of edges after another. -/
theorem beatsTaken_append (BL : Nat) (CL : Nat → List Word → Nat) (is js : List PortIn) (s : State) :
    beatsTaken BL CL (is ++ js) s = beatsTaken BL CL is s ++ beatsTaken BL CL js (edges BL CL is s) := by
  induction is generalizing s with
  | nil => rfl
  | cons i is ih => rw [List.cons_append, beatsTaken, beatsTaken, edges, ih, List.append_assoc]

/-- Nothing is offered while reset lasts (log entry 8). -/
theorem outBeat_inReset {rst : Bool} {s : State} (h : rst = true ∨ s.rstHeld = true) : outBeat rst s = none :=
  if_pos (or_assoc.1 (.inl h))

/-- So no beat moves at an edge in reset, whatever `out_ready` is. -/
theorem beatsTaken_cons_inReset (BL : Nat) (CL : Nat → List Word → Nat) {i : PortIn} (is : List PortIn) {s : State}
    (h : i.rst = true ∨ s.rstHeld = true) : beatsTaken BL CL (i :: is) s = beatsTaken BL CL is (edge BL CL i s) := by
  rw [beatsTaken, outBeat_inReset h, Option.toList_none, ite_self, List.nil_append]

/-- Nor at any number of edges with `rst` high. -/
theorem beatsTaken_reset (BL : Nat) (CL : Nat → List Word → Nat) {highs : List PortIn}
    (hrst : ∀ i ∈ highs, i.rst = true) (s : State) : beatsTaken BL CL highs s = [] := by
  induction highs generalizing s with
  | nil => rfl
  | cons i is ih =>
    obtain ⟨hi, his⟩ := List.forall_mem_cons.1 hrst
    rw [beatsTaken_cons_inReset BL CL is (.inl hi), ih his]

/-- Settles O40: it holds; the edges are one reset event (`edges_reset`), completed as `rst` falls, and `in_ready` is high
because the engine is then ready. -/
theorem resetAbandonsEverything : Obligations.ResetAbandonsEverything := by
  intro BL CL highs low s hne hrst hlow
  have hhighs : edges BL CL highs s = resetEvent true s := edges_reset BL CL hne hrst s
  have hedges : edges BL CL (highs ++ [low]) s = resetEvent false s := by
    rw [edges_append, hhighs, edges, edges, edge_endReset hlow (resetEvent_rstHeld true s), resetEvent_resetEvent]
  have hbeats : beatsTaken BL CL (highs ++ [low]) s = [] := by
    rw [beatsTaken_append, beatsTaken_reset BL CL hrst, hhighs,
      beatsTaken_cons_inReset BL CL [] (.inr (resetEvent_rstHeld true s)), beatsTaken, List.nil_append]
  have hready := resetEvent_ready s
  rw [hedges]
  exact ⟨hready, rfl, rfl, hbeats,
    (inReady_iff _ _).2 ⟨rfl, hready.outOfReset, hready.idle, hready.nothingSent⟩⟩

end Sys2Proof.Machine
end
